-- ==== Sys2Proof/Word.lean ====
section
/-!
DEFINITION. The word types of SFEC (spec 00_scope.md R6): bits are numbered from 0 at the least
significant end, a byte is 8 bits, a command word 24, an accumulator or binary32 pattern 32.
-/
namespace Sys2Proof

/-- Register addresses, control words, status words, data bytes (R6). -/
abbrev Byte := BitVec 8

/-- A device address on the two-wire bus (R50). -/
abbrev Addr7 := BitVec 7

/-- A command word `{op[7:0], a[7:0], d[7:0]}` of the command port (R80). -/
abbrev CmdWord := BitVec 24

/-- `u32`, and the bit pattern of an `f32` (R6, R156). -/
abbrev Word := BitVec 32

end Sys2Proof
end

