-- ==== Sys2Proof/Machine/Errors.lean ====
section
/-!
DEFINITION. The transport's error values, `TErr` (spec 00_scope.md R5; 10_state.md R29): an opaque
type with at least one value, which the model takes as an argument (92_eei_decisions.md D8).
-/
namespace Sys2Proof

/-- Which codes beside 0 are error values of the transport: fixed by the implementation (R5, D8),
with no body, so that nothing is known of how many error values there are. -/
opaque Config.isErrorCode : Nat → Bool

namespace Machine

/-- `TErr` (R5, R29): the codes `Config.isErrorCode` admits, and 0, so that there is at least one
value. SFEC never inspects it. DESIGN CHOICE, safe: the values are numbered, log entry 3. -/
structure TErr where
  code : Nat
  legal : code = 0 ∨ Config.isErrorCode code = true
  deriving DecidableEq, Repr

/-- The one error value every transport has. -/
def TErr.first : TErr := ⟨0, .inl rfl⟩

/-- The error value of a code; `TErr.first` for a code that is none. -/
def TErr.ofCode (n : Nat) : TErr :=
  if h : Config.isErrorCode n = true then ⟨n, .inr h⟩ else TErr.first

end Machine

end Sys2Proof
end

