-- ==== Sys2Proof/Machine/Calls.lean ====
section
/-!
DEFINITION. The vocabulary of the two ports SFEC calls: the Register Transport and the host runtime
(spec 30_encoding.md R87, R88), what they answer (20_memory.md R64), and the trace's entries
(00_scope.md R9).
-/
namespace Sys2Proof.Machine

/-- The count of a `T.read`: 1, 2 or 3 (R87). -/
inductive ReadCount where
  | one
  | two
  | three
  deriving DecidableEq, Repr

def ReadCount.toNat : ReadCount → Nat
  | .one => 1
  | .two => 2
  | .three => 3

/-- The five transport calls and the one runtime call (R87, R88). -/
inductive Call where
  /-- `T.begin()`. -/
  | begin
  /-- `T.start(a7)`. -/
  | start (a7 : Addr7)
  /-- `T.write(b)`. -/
  | write (b : Byte)
  /-- `T.end(hold)`. -/
  | endTx (hold : Bool)
  /-- `T.read(a7, n)`. -/
  | read (a7 : Addr7) (n : ReadCount)
  /-- `H.sleep(ms)`. -/
  | sleep (ms : Nat)
  deriving DecidableEq, Repr

/-- The bytes an `ok` answer carries, first received first. A `T.read(_, n)` takes the first `n` of
them, so that an answer of another length cannot be written down (R87, D9); other calls take none. -/
structure Burst where
  b0 : Byte
  b1 : Byte
  b2 : Byte
  deriving DecidableEq, Repr, Inhabited

/-- What the transport does when SFEC waits for it (R64, R87, D9): it returns `ok`, it returns
`err(e)`, or it has not returned yet (a call that never returns is `pending` for ever, U10). -/
inductive Answer where
  | ok (bs : Burst)
  | err (e : TErr)
  | pending
  deriving DecidableEq, Repr, Inhabited

/-- How a call of the trace ended. -/
inductive Reply where
  /-- It returned `ok` with these bytes (none unless it is a `T.read`). -/
  | ok (bs : List Byte)
  /-- It returned `err(e)`. -/
  | err (e : TErr)
  /-- SFEC was reset before it returned (70_reset_and_hazards.md R190). -/
  | unreturned
  deriving DecidableEq, Repr

/-- One entry of the trace: a call with its arguments, and its reply (R9, R90). -/
structure Event where
  call : Call
  reply : Reply
  deriving DecidableEq, Repr

end Sys2Proof.Machine
end

