-- ==== Sys2Proof/Config.lean ====
section
/-!
DEFINITION. What an implementation fixes (the OPEN parameters of spec 00_scope.md R5) and the free
values: the oracle's answers where none is scripted (20_memory.md R64) and the registers the reset
action leaves unspecified (10_state.md R41). A free value is an opaque constant: nothing can
evaluate it, and a statement about it holds whatever it is.
-/
namespace Sys2Proof

/-- The OPEN parameters of R5. "The model takes each as an argument": they are a field of the state
that no step writes, so that a statement over all states holds for all parameters. -/
structure Params where
  /-- `CW_ARM_BAR`, the control word of `GETP`'s ARM. -/
  cwArmBar : Byte
  /-- `EVCFG_INIT`, the data-event-configuration word of `INIT`. -/
  evcfgInit : Byte
  /-- `MASK_PDR`, the Status bit for pressure/altitude data ready. -/
  maskPdr : Byte
  /-- `MASK_TDR`, the Status bit for temperature data ready. -/
  maskTdr : Byte
  deriving DecidableEq, Repr

/-- Free value: the transport's answer to the `n`-th question no script answers (R64, U8, U10). -/
opaque Config.freeAnswer : Nat → Machine.Answer

/-- Free value: whether `H.sleep` has returned at the `n`-th question no script answers (R88, U10). -/
opaque Config.freeWake : Nat → Bool

/-- Free value: `ACC` after the reset action (R41). -/
opaque Config.freeAcc : Nat → Word

/-- Free value: `RB` after the reset action (R41). -/
opaque Config.freeRb : Nat → Byte

/-- Free value: `RES` after the reset action (R41). -/
opaque Config.freeRes : Nat → Word

/-- Free value: `CMD` after the reset action (R41). -/
opaque Config.freeCmd : Nat → CmdWord

/-- Free value: the code of `TERR` after the reset action (R41). -/
opaque Config.freeTerrCode : Nat → Nat

end Sys2Proof
end

