-- ==== Sys2Proof/Machine/Constants.lean ====
section
/-!
DEFINITION. The constants of spec 00_scope.md R4 (with `CW_ARM_ALT`, which R5 and 42_measurement.md
R131 derive), the reference values of R5's parameters, and the constraints R5 puts on them.
-/
namespace Sys2Proof.Machine

/-- `DEV_ADDR`, the bus address of the sensor (R4, R37). -/
def devAddr : Addr7 := 0x60

/-- `REG_STATUS` (R4, R34). -/
def regStatus : Byte := 0x00

/-- `REG_P_MSB`, first of three bytes (R4, R35). -/
def regPMsb : Byte := 0x01

/-- `REG_T_MSB`, first of two bytes (R4, R36). -/
def regTMsb : Byte := 0x04

/-- `REG_ID` (R4, R31). -/
def regId : Byte := 0x0C

/-- `REG_EVCFG` (R4, R33). -/
def regEvcfg : Byte := 0x13

/-- `REG_CTRL1` (R4, R32). -/
def regCtrl1 : Byte := 0x26

/-- `ID_EXPECTED` (R4, R121). -/
def idExpected : Byte := 0xC4

/-- `CW_INIT`, kept as the source's literal (R4, R123; 90_conflicts.md C5). -/
def cwInit : Byte := 0x3B

/-- `CW_ARM_ALT`, "the same three components as the initialization word" (R5, R131). -/
def cwArmAlt : Byte := cwInit

/-- `PAD_BITS` (R4, R151). -/
def padBits : Nat := 4

/-- `FRAC_P` (R4, R152). -/
def fracP : Nat := 2

/-- `FRAC_A` (R4, R154). -/
def fracA : Nat := 4

/-- `FRAC_T` (R4, R155). -/
def fracT : Nat := 4

/-- `SIGN_BIT_A` (R4, R153). -/
def signBitA : Nat := 19

/-- `SEXT_MASK_A` (R4, R153; 90_conflicts.md C4). -/
def sextMaskA : Word := 0xFFF00000

/-- `POLL_INTERVAL`, in milliseconds (R4, R132; 90_conflicts.md C6). -/
def pollInterval : Nat := 10

/-- The reference values of R5. PRESUMED, log entry 4: the spec takes them from general knowledge. -/
def referenceParams : Params :=
  { cwArmBar := 0x39, evcfgInit := 0x07, maskPdr := 0x04, maskTdr := 0x02 }

/-- "Exactly one bit set" (R5). -/
abbrev oneBit (b : Byte) : Prop := ∃ k : Fin 8, b = 1#8 <<< k.val

/-- At least three different bits are set: three flags are enabled (R5). -/
abbrev threeFlags (b : Byte) : Prop :=
  ∃ i j k : Fin 8, i < j ∧ j < k ∧ b.getLsbD i = true ∧ b.getLsbD j = true ∧ b.getLsbD k = true

/-- What R5 settles about the parameters: each mask has exactly one bit, the two are different,
`CW_ARM_BAR` differs from `CW_ARM_ALT` in one bit (the mode bit) and in nothing else, and `EVCFG_INIT`
enables three flags. DEDUCED, log entry 4: a flag is one bit, and three flags are three bits. -/
structure LegalParams (p : Params) : Prop where
  maskPdr_oneBit : oneBit p.maskPdr
  maskTdr_oneBit : oneBit p.maskTdr
  masks_differ : p.maskPdr ≠ p.maskTdr
  armBar_modeBit : oneBit (p.cwArmBar ^^^ cwArmAlt)
  evcfg_flags : threeFlags p.evcfgInit

end Sys2Proof.Machine
end

