-- ==== Sys2Proof/Machine/Operands.lean ====
section
/-!
DEFINITION. Operand assembly: a multi-byte sensor value from burst bytes (spec 43_conversion.md
R150), the padding shift (R151) and the sign extension of altitude (R153, 30_encoding.md R91). The
operands `a` and `d` of a command word are used as they stand (30_encoding.md R84).
-/
namespace Sys2Proof.Machine

/-- The first `n` bytes of an answer, in the order received (R87). -/
def Burst.bytes (n : ReadCount) (bs : Burst) : List Byte :=
  match n with
  | .one => [bs.b0]
  | .two => [bs.b0, bs.b1]
  | .three => [bs.b0, bs.b1, bs.b2]

/-- One step of the assembly: `(ACC << 8) | zext_32(b)` (R150). -/
def shiftIn (acc : Word) (b : Byte) : Word := (acc <<< 8) ||| b.setWidth 32

/-- The assembly of a cleared `ACC` from the bytes, most significant first (R51, R150). -/
def assemble (bs : List Byte) : Word := bs.foldl shiftIn 0

/-- The padding shift, logical for all three quantities, the low four bits dropped (R151). -/
def padShift (v : Word) : Word := v >>> padBits

/-- The 20 bits of `V` a pressure or altitude conversion uses (R151, R159). -/
def shifted20 (acc : Word) : BitVec 20 := (padShift acc).setWidth 20

/-- The 12 bits of `V` a temperature conversion uses: `ACC[15:0] >> 4` (R155, R159). -/
def shifted12 (acc : Word) : BitVec 12 := (padShift (acc &&& 0xFFFF)).setWidth 12

/-- "if bit 19 of the shifted value is set, sign-extend by OR-ing in the high byte pattern" (R153). -/
def signExtendA (v : BitVec 20) : Word :=
  if v.getLsbD signBitA then v.setWidth 32 ||| sextMaskA else v.setWidth 32

/-- The pure function `sign-extend(value, bitWidth)` = `sext_32(value[bitWidth-1:0])` (R91). -/
def signExtend (value : Word) (bitWidth : Nat) : Word := (value.setWidth bitWidth).signExtend 32

end Sys2Proof.Machine
end

