-- ==== Sys2Proof/Machine/Fields.lean ====
section
/-!
DEFINITION. The fields of a command word (spec 30_encoding.md R80).
-/
namespace Sys2Proof

/-- The field `op`, bits 23:16 of a command word (R80). -/
def cmdOp (w : CmdWord) : Byte := w.extractLsb' 16 8

/-- The field `a`, bits 15:8 of a command word (R80). -/
def cmdA (w : CmdWord) : Byte := w.extractLsb' 8 8

/-- The field `d`, bits 7:0 of a command word (R80). -/
def cmdD (w : CmdWord) : Byte := w.extractLsb' 0 8

/-- The word with the three fields `{op, a, d}` (R80). -/
def cmdWord (op a d : Byte) : CmdWord := op ++ a ++ d

end Sys2Proof
end

