-- ==== Sys2Proof/Syntax.lean ====
section
/-!
DEFINITION. The six commands of the host (spec 30_encoding.md R85), one constructor for each row of
spec/opcode_table.json. The operands are the bytes `a` and `d` as they stand (R84).
-/
namespace Sys2Proof

inductive Instr where
  /-- `INIT` (R120). -/
  | init
  /-- `GETP`, pressure measurement (R135). -/
  | getp
  /-- `GETA`, altitude measurement (R136). -/
  | geta
  /-- `GETT`, temperature measurement (R137). -/
  | gett
  /-- `RDREG a`, read one sensor register (R103). -/
  | rdreg (a : Byte)
  /-- `WRREG a, d`, write one sensor register (R104). -/
  | wrreg (a d : Byte)
  deriving DecidableEq, Repr

end Sys2Proof
end

