-- ==== Sys2Proof/WellFormed.lean ====
section
/-!
DEFINITION. Which command words are legal, twice over: by the three formats (spec 30_encoding.md
R81 to R83) and by the opcode map's match and mask columns (R85). Every operand byte is legal by its
type (R84, R83), so all checks are on the word: the operation code is assigned, a format-Z word has
`a = d = 0`, a format-A word has `d = 0`.
-/
namespace Sys2Proof

/-- The three formats (R81, R82, R83). -/
inductive Format where
  | z
  | a
  | ad
  deriving DecidableEq, Repr

/-- The format an operation code selects; none for a reserved one (R85, R86). -/
def opFormat (op : Byte) : Option Format :=
  if op = 0x01 ∨ op = 0x02 ∨ op = 0x03 ∨ op = 0x04 then some .z
  else if op = 0x10 then some .a
  else if op = 0x11 then some .ad
  else none

/-- The word is not reserved: R81, R82, R83, and R86 for the rest. -/
def wordWellFormed (w : CmdWord) : Bool :=
  match opFormat (cmdOp w) with
  | some .z => cmdA w == 0 && cmdD w == 0
  | some .a => cmdD w == 0
  | some .ad => true
  | none => false

/-- A row of the opcode map of R85. -/
structure OpcodeRow where
  mnemonic : String
  pattern : CmdWord
  mask : CmdWord
  deriving DecidableEq, Repr

/-- "A word `w` selects the row when `w & mask = match`" (R85). -/
def OpcodeRow.selects (r : OpcodeRow) (w : CmdWord) : Bool := w &&& r.mask == r.pattern

/-- The complete opcode map (R85). -/
def opcodeMap : List OpcodeRow :=
  [⟨"INIT", 0x010000, 0xFFFFFF⟩,
   ⟨"GETP", 0x020000, 0xFFFFFF⟩,
   ⟨"GETA", 0x030000, 0xFFFFFF⟩,
   ⟨"GETT", 0x040000, 0xFFFFFF⟩,
   ⟨"RDREG", 0x100000, 0xFF00FF⟩,
   ⟨"WRREG", 0x110000, 0xFF0000⟩]

/-- The name of the row an instruction belongs to (R85). -/
def Instr.mnemonic : Instr → String
  | .init => "INIT"
  | .getp => "GETP"
  | .geta => "GETA"
  | .gett => "GETT"
  | .rdreg _ => "RDREG"
  | .wrreg _ _ => "WRREG"

end Sys2Proof
end

