-- ==== Sys2Proof/Decode.lean ====
section
/-!
DEFINITION. The decoder of command words, total, with a named rejection for every reserved word
(spec 30_encoding.md R85, R86), and after it the encoder (R80 to R83, R85).
-/
namespace Sys2Proof

/-- The three kinds of reserved word R86 lists. -/
inductive Reserved where
  /-- `op` values 0x00, 0x05 to 0x0F and 0x12 to 0xFF. -/
  | opcode
  /-- `op` 0x01 to 0x04 with `a ≠ 0` or `d ≠ 0`. -/
  | formatZOperand
  /-- `op` 0x10 with `d ≠ 0`. -/
  | formatAData
  deriving DecidableEq, Repr

/-- Format Z: `a` and `d` must both be 0x00 (R81). -/
def decodeZ (i : Instr) (w : CmdWord) : Except Reserved Instr :=
  if cmdA w = 0 ∧ cmdD w = 0 then .ok i else .error .formatZOperand

/-- Format A: `d` must be 0x00 (R82). -/
def decodeA (i : Byte → Instr) (w : CmdWord) : Except Reserved Instr :=
  if cmdD w = 0 then .ok (i (cmdA w)) else .error .formatAData

/-- The decoder of R85 and R86, on any of the 2^24 words. -/
def decode (w : CmdWord) : Except Reserved Instr :=
  if cmdOp w = 0x01 then decodeZ .init w
  else if cmdOp w = 0x02 then decodeZ .getp w
  else if cmdOp w = 0x03 then decodeZ .geta w
  else if cmdOp w = 0x04 then decodeZ .gett w
  else if cmdOp w = 0x10 then decodeA .rdreg w
  else if cmdOp w = 0x11 then .ok (.wrreg (cmdA w) (cmdD w))
  else .error .opcode

/-- The word of an instruction (R80, R85). -/
def encode : Instr → CmdWord
  | .init => cmdWord 0x01 0 0
  | .getp => cmdWord 0x02 0 0
  | .geta => cmdWord 0x03 0 0
  | .gett => cmdWord 0x04 0 0
  | .rdreg a => cmdWord 0x10 a 0
  | .wrreg a d => cmdWord 0x11 a d

/-- An instruction is well-formed when its word is not reserved (R81 to R83, R86). -/
def Instr.wellFormed (i : Instr) : Bool := wordWellFormed (encode i)

/-- The pseudo-instruction `PROBE` (R91): `RDREG 0x0C`, the comparison with 0xC4 being the host's. -/
def probe : Instr := .rdreg 0x0C

/-- What the decoder reads from the table's word: a command is one 24-bit value, bit 0 least
significant, with no byte order (R51, R80); bits above `nbits` are 0. -/
def decodeTableWord (nbits w : Nat) : Option Instr :=
  match decode (BitVec.ofNat 24 (w % 2 ^ nbits)) with
  | .ok i => some i
  | .error _ => none

end Sys2Proof
end

