-- ==== Sys2Proof/Machine/State.lean ====
section
/-!
DEFINITION. The state of SFEC as plain data (spec 10_state.md), the sequencer's steps (R20), the
exceptions (60_exceptions.md R170), the reasons of a refusal, and the state after reset (R41).
-/
namespace Sys2Proof.Machine

/-- The four numbered lines of `MemRead` (R100, R102) and of `MemWrite` (R101). -/
inductive Line where
  | one
  | two
  | three
  | four
  deriving DecidableEq, Repr

/-- The steps of `INIT` (R120): INIT.0, INIT.1 to .4, INIT.5, INIT.6 to .9, INIT.10 to .13, INIT.14. -/
inductive InitStep where
  | begin
  | idRead (l : Line)
  | check
  | ctrlWrite (l : Line)
  | evcfgWrite (l : Line)
  | finish
  deriving DecidableEq, Repr

/-- The steps the three measurements share (R130): POLL.0 to .3, POLL.4, POLL.5, READ.0 to .3,
CONVERT, DONE. -/
inductive MeasStep where
  | poll (l : Line)
  | test
  | sleep
  | read (l : Line)
  | convert
  | done
  deriving DecidableEq, Repr

/-- The steps of `GETP` and `GETA`: ARM.0 to .3 (R131) before the shared ones. `GETT` has no ARM. -/
inductive ArmedStep where
  | arm (l : Line)
  | meas (m : MeasStep)
  deriving DecidableEq, Repr

/-- The steps of `RDREG` (R103) and of `WRREG` (R104): .0 to .3, then .4. -/
inductive XferStep where
  | xfer (l : Line)
  | finish
  deriving DecidableEq, Repr

/-- The sequencer state: `IDLE` and the pairs (op, label) (R20). An enumeration, no bits. -/
inductive Pc where
  | idle
  | init (st : InitStep)
  | getp (st : ArmedStep)
  | geta (st : ArmedStep)
  | gett (st : MeasStep)
  | rdreg (st : XferStep)
  | wrreg (st : XferStep)
  deriving DecidableEq, Repr

/-- The three synchronous exceptions (R170). -/
inductive Exception where
  | deviceNotFound
  | busError (e : TErr)
  | illegalCommand
  deriving DecidableEq, Repr

/-- SFEC has no machine-stopping fault: its exceptions leave a next state (R176), an endless poll is
an infinite run (R174) and a call that does not return leaves SFEC waiting (D9). The type is empty. -/
inductive Fault where
  deriving DecidableEq, Repr

/-- Why a step is refused. -/
inductive Refusal where
  /-- An arm of `exec` that has no meaning yet; no arm answers it. Safe. -/
  | notModelled (mnemonic : String)
  /-- Raised by the step, by no instruction's meaning, when another agent writes a sensor register or
  uses the transport, or has done so, during the run: "the model gives such a run no meaning (a
  refusal), never a value" (R61; U1, D23). Safe. -/
  | exclusiveAccessViolated
  deriving DecidableEq, Repr

/-- Everything the spec gives SFEC (10_state.md R20 to R29), the observable history (00_scope.md
R9), the implementation parameters (R5) and the inputs the environment drives (70 R204). -/
structure State where
  /-- The sequencer state (R20). -/
  pc : Pc
  /-- `ACC`, the multi-byte-value assembler (R21). -/
  acc : Word
  /-- `RB`, the read-byte latch (R22). -/
  rb : Byte
  /-- `RES`, the binary32 result (R23). -/
  res : Word
  /-- `CMD`, the command latch (R24). -/
  cmd : CmdWord
  /-- `BUSY` (R25). -/
  busy : Bool
  /-- `DONE` (R26). -/
  done : Bool
  /-- `OK` (R27). -/
  ok : Bool
  /-- `ERR`, the outcome code (R28). -/
  err : BitVec 2
  /-- `TERR`, the transport's error value (R29). -/
  terr : TErr
  /-- The completed calls on `T` and `H`, in order (R9). -/
  trace : List Event
  /-- The call made and not yet returned (R7, R190). -/
  inFlight : Option Call
  /-- The OPEN parameters (R5); no step writes them. -/
  params : Params
  /-- Input: the command words offered and not yet accepted, the next to be served first (R24, R194). -/
  port : List CmdWord
  /-- Input: a reset has been requested and not yet applied (R190). -/
  resetReq : Bool
  /-- Input: the transport's scripted answers still to come; when none is left the answer is free
  (R64). -/
  answers : List Answer
  /-- Input: whether `H.sleep` has returned, question by question; when none is left it is free. -/
  wakes : List Bool
  /-- Input: another agent is writing a sensor register or using the transport (R61). -/
  foreignUse : Bool
  /-- Another agent has done so since the running command was accepted: the run has no meaning, also
  after that use has ended (R61, R196). The model's own field, log entry 9. -/
  disturbed : Bool
  /-- How many free values have been drawn: the index of the next one. -/
  draws : Nat
  deriving DecidableEq, Repr

/-- The machine right after reset (R41). `pc` and the four flags are the spec's; `acc`, `rb`, `res`,
`cmd` and `terr` are unspecified there: DESIGN CHOICE, unsafe, zero, log entry 1. The parameters are
the reference values (PRESUMED, log entry 4), and no input has arrived (log entries 5 to 9). -/
def State.reset : State :=
  { pc := .idle
    acc := 0
    rb := 0
    res := 0
    cmd := 0
    busy := false
    done := false
    ok := false
    err := 0
    terr := TErr.first
    trace := []
    inFlight := none
    params := referenceParams
    port := []
    resetReq := false
    answers := []
    wakes := []
    foreignUse := false
    disturbed := false
    draws := 0 }

end Sys2Proof.Machine
end

