-- ==== Sys2Proof/Machine/Flags.lean ====
section
/-!
DEFINITION. SFEC's tests and status outputs. It has no arithmetic flags (spec 10_state.md section 3);
what it tests is one Status bit (42_measurement.md R132) and the identity byte (41_initialization.md
R121), and what it reports is `BUSY`, `DONE`, `OK` and `ERR` (R25 to R28).
-/
namespace Sys2Proof.Machine

/-- The ready test `(RB & MASK) ≠ 0`; the other seven bits are ignored (R132, D13). -/
def readySet (rb mask : Byte) : Bool := rb &&& mask != 0

/-- The identity check: exact equality with `ID_EXPECTED` (R121). -/
def identityMatches (rb : Byte) : Bool := rb == idExpected

/-- The outcome code of an exception (R28, R170); 0 is `NONE`. -/
def Exception.code : Exception → BitVec 2
  | .deviceNotFound => 1
  | .busError _ => 2
  | .illegalCommand => 3

/-- `TERR` after an exception: only `BusError(e)` writes it (R29, R176). -/
def Exception.terr (x : Exception) (old : TErr) : TErr :=
  match x with
  | .busError e => e
  | .deviceNotFound => old
  | .illegalCommand => old

/-- `OK` after the acceptance of `w`: cleared when `w.op = INIT`, whether or not the word is legal
(R24, R27; 95_test_vectors.md V-E2). -/
def okAccepted (w : CmdWord) (old : Bool) : Bool := if cmdOp w = 0x01 then false else old

end Sys2Proof.Machine
end

