-- ==== Sys2Proof/Machine/Ops.lean ====
section
/-!
DEFINITION. The named operations of the sequencer: making a call (spec 40_byte_transactions.md R105),
the lines of `MemRead` and `MemWrite` (R100 to R102), accepting a command (10_state.md R24), taking an
exception (60_exceptions.md R176), ending a run (42_measurement.md R134) and reset
(70_reset_and_hazards.md R190).
-/
namespace Sys2Proof.Machine

/-! ## The two ports' answers -/

/-- The transport's answer now: the next scripted one, else a free value (R64; log entry 7). -/
def takeAnswer (s : State) : Answer × State :=
  match s.answers with
  | a :: as => (a, { s with answers := as })
  | [] => (Config.freeAnswer s.draws, { s with draws := s.draws + 1 })

/-- Whether `H.sleep` has returned now: the next scripted word on it, else a free value (R88; log
entry 8). -/
def takeWake (s : State) : Bool × State :=
  match s.wakes with
  | w :: ws => (w, { s with wakes := ws })
  | [] => (Config.freeWake s.draws, { s with draws := s.draws + 1 })

/-- A call has ended: it goes to the trace with its reply (R9). -/
def record (c : Call) (r : Reply) (s : State) : State :=
  { s with trace := s.trace ++ [⟨c, r⟩], inFlight := none }

/-- A call has been made and has not returned: SFEC blocks in this step (R7, D9). -/
def await (c : Call) (s : State) : State := { s with inFlight := some c }

/-! ## The end of a run -/

/-- Exception entry, `raise X(info)` (R176): `ERR`, for a bus error `TERR`, `BUSY`, `DONE` and `pc`,
and nothing else. There is no return operation (R177): at `IDLE` the next command is accepted. -/
def raise (x : Exception) (s : State) : State :=
  { s with err := x.code, terr := x.terr s.terr, busy := false, done := true, pc := .idle }

/-- The last step of every step list: `BUSY <- 0 ; DONE <- 1 ; pc <- IDLE` (R103, R104, R120, R134). -/
def finish (s : State) : State := { s with busy := false, done := true, pc := .idle }

/-! ## Acceptance -/

/-- What the acceptance of any word does (R24): the latch and the flags. -/
def latch (w : CmdWord) (s : State) : State :=
  { s with cmd := w, busy := true, done := false, err := 0, ok := okAccepted w s.ok }

/-- The acceptance of a legal word: `pc <- (op, first label)` (R24). A run that begins while another
agent uses the transport or the sensor is disturbed from the start (R61). -/
def accept (w : CmdWord) (first : Pc) (s : State) : State :=
  { latch w s with pc := first, disturbed := s.foreignUse }

/-- The acceptance of a reserved word: `raise IllegalCommand` at once, no call (R24, R86, R173). -/
def acceptReserved (w : CmdWord) (s : State) : State := raise .illegalCommand (latch w s)

/-! ## Calls -/

/-- The bytes a call yields: those of a `T.read`, none of any other (R87, R105). -/
def Call.yields (c : Call) (bs : Burst) : List Byte :=
  match c with
  | .read _ n => bs.bytes n
  | .begin => []
  | .start _ => []
  | .write _ => []
  | .endTx _ => []
  | .sleep _ => []

/-- The wrapper `call(c)` (R105): the call is made once and blocks until the transport returns; an
`err(e)` raises `BusError(e)` (R172), an `ok` lets the step go on with `next`. -/
def call (c : Call) (next : Burst → State → State) (s : State) : State :=
  match takeAnswer s with
  | (.pending, t) => await c t
  | (.err e, t) => raise (.busError e) (record c (.err e) t)
  | (.ok bs, t) => next bs (record c (.ok (c.yields bs)) t)

/-- `H.sleep(POLL_INTERVAL)`, which cannot fail (R88, R105): it blocks until the runtime returns. -/
def sleepCall (next : Pc) (s : State) : State :=
  match takeWake s with
  | (false, t) => await (.sleep pollInterval) t
  | (true, t) => { record (.sleep pollInterval) (.ok []) t with pc := next }

/-- The step of a call whose bytes are not used: on `ok` the sequencer goes to `next`. -/
def callThen (c : Call) (next : Pc) (s : State) : State := call c (fun _ t => { t with pc := next }) s

/-- One line of `MemRead(addr, n)` (R100, R102): `here l` is the step of line `l`, and `after` is what
the step of line 4 does with the bytes. -/
def memRead (addr : Byte) (n : ReadCount) (here : Line → Pc) (after : Burst → State → State)
    (l : Line) (s : State) : State :=
  match l with
  | .one => callThen (.start devAddr) (here .two) s
  | .two => callThen (.write addr) (here .three) s
  | .three => callThen (.endTx true) (here .four) s
  | .four => call (.read devAddr n) after s

/-- One line of `MemRead(addr, 1)` (R100): line 4 latches the byte in `RB`. -/
def memReadByte (addr : Byte) (here : Line → Pc) (next : Pc) (l : Line) (s : State) : State :=
  memRead addr .one here (fun bs t => { t with rb := bs.b0, pc := next }) l s

/-- One line of `MemWrite(addr, 1, v)` (R101). -/
def memWrite (addr v : Byte) (here : Line → Pc) (next : Pc) (l : Line) (s : State) : State :=
  match l with
  | .one => callThen (.start devAddr) (here .two) s
  | .two => callThen (.write addr) (here .three) s
  | .three => callThen (.write v) (here .four) s
  | .four => callThen (.endTx false) next s

/-! ## Reset -/

/-- A call in progress when SFEC is reset stays made (R190): it goes to the trace without a reply. -/
def abandon (s : State) : State :=
  match s.inFlight with
  | some c => record c .unreturned s
  | none => s

/-- The reset action (R190, R41): `pc <- IDLE`, the flags cleared, `ACC`, `RB`, `RES`, `CMD`, `TERR`
unspecified (free values, log entry 2); no call is made and the request is served. The run it ends is
no longer one that a disturbance could concern (R61). -/
def applyReset (s : State) : State :=
  { abandon s with
    pc := .idle
    busy := false
    done := false
    ok := false
    err := 0
    acc := Config.freeAcc s.draws
    rb := Config.freeRb s.draws
    res := Config.freeRes s.draws
    cmd := Config.freeCmd s.draws
    terr := TErr.ofCode (Config.freeTerrCode s.draws)
    draws := s.draws + 1
    resetReq := false
    disturbed := false }

end Sys2Proof.Machine
end

