-- ==== Sys2Proof/Machine/ByteTransactions.lean ====
section
/-!
DEFINITION. The two byte transaction commands (spec 40_byte_transactions.md R103, R104).
-/
namespace Sys2Proof.Machine

/-- `RDREG a` (R103), one step: accepted at `IDLE` (R24), then RDREG.0 to .3 `MemRead(a, 1)`, then
RDREG.4. While another command runs it is not accepted and waits (R24). -/
def execRdreg (a : Byte) (s : State) : Host.Outcome State Fault Refusal :=
  .next <|
    match s.pc with
    | .idle => accept (encode (.rdreg a)) (.rdreg (.xfer .one)) s
    | .rdreg (.xfer l) => memReadByte a (fun k => .rdreg (.xfer k)) (.rdreg .finish) l s
    | .rdreg .finish => finish s
    | _ => s

/-- `WRREG a, d` (R104), one step: accepted at `IDLE` (R24), then WRREG.0 to .3 `MemWrite(a, 1, d)`,
then WRREG.4. While another command runs it is not accepted and waits (R24). -/
def execWrreg (a d : Byte) (s : State) : Host.Outcome State Fault Refusal :=
  .next <|
    match s.pc with
    | .idle => accept (encode (.wrreg a d)) (.wrreg (.xfer .one)) s
    | .wrreg (.xfer l) => memWrite a d (fun k => .wrreg (.xfer k)) (.wrreg .finish) l s
    | .wrreg .finish => finish s
    | _ => s

end Sys2Proof.Machine
end

