-- ==== Sys2Proof/Machine/Initialization.lean ====
section
/-!
DEFINITION. Device initialization (spec 41_initialization.md R120 to R125).
-/
namespace Sys2Proof.Machine

/-- INIT.5, the identity check (R121): go on, or raise `DeviceNotFound`. -/
def initCheck (s : State) : State :=
  if identityMatches s.rb then { s with pc := .init (.ctrlWrite .one) } else raise .deviceNotFound s

/-- One step of `INIT`'s step list (R120). -/
def initStep (st : InitStep) (s : State) : State :=
  match st with
  | .begin => callThen .begin (.init (.idRead .one)) s
  | .idRead l => memReadByte regId (fun k => .init (.idRead k)) (.init .check) l s
  | .check => initCheck s
  | .ctrlWrite l =>
    memWrite regCtrl1 cwInit (fun k => .init (.ctrlWrite k)) (.init (.evcfgWrite .one)) l s
  | .evcfgWrite l =>
    memWrite regEvcfg s.params.evcfgInit (fun k => .init (.evcfgWrite k)) (.init .finish) l s
  | .finish => { finish s with ok := true }

/-- `INIT` (R120), one step: accepted at `IDLE` (R24), then its step list. While another command runs
it is not accepted and waits (R24). -/
def execInit (s : State) : Host.Outcome State Fault Refusal :=
  .next <|
    match s.pc with
    | .idle => accept (encode .init) (.init .begin) s
    | .init st => initStep st s
    | _ => s

end Sys2Proof.Machine
end

