-- ==== Sys2Proof/Machine/Float.lean ====
section
/-!
DEFINITION. The fixed-point-to-float converter (spec 43_conversion.md R152 to R158): the bit-level
construction of a binary32 pattern from a magnitude (R157), the three conversions (R152, R154,
R155), and the number a binary32 pattern stands for (R156), in which their exactness is stated.
-/
namespace Sys2Proof.Machine

/-- The index of the most significant 1 bit of `m` among the bits up to `n`; 0 if there is none. -/
def topBitFrom (m : BitVec 20) : Nat → Nat
  | 0 => 0
  | n + 1 => if m.getLsbD (n + 1) then n + 1 else topBitFrom m n

/-- `k` of R157. -/
def topBit (m : BitVec 20) : Nat := topBitFrom m 19

/-- `fix2f(sign, M, F)` (R157): the binary32 pattern of `± M / 2^F`, `M < 2^20`; +0.0 for `M = 0`. -/
def fix2f (sign : Bool) (m : BitVec 20) (f : Nat) : Word :=
  if m = 0 then 0
  else
    BitVec.ofBool sign ++ BitVec.ofNat 8 (127 + topBit m - f) ++ m.setWidth 23 <<< (23 - topBit m)

/-- Pressure: `u2f(V) / 4.0`, `V = ACC >> 4` unsigned (R152). -/
def convertPressure (acc : Word) : Word := fix2f false (shifted20 acc) fracP

/-- The magnitude `|S|` of a 32-bit two's-complement value, as the 20 bits R157 takes. -/
def magnitude (w : Word) : BitVec 20 := (if w.msb then -w else w).setWidth 20

/-- Altitude: `i2f(S) / 16.0`, `S` the sign-extended `V` (R153, R154). -/
def convertAltitude (acc : Word) : Word :=
  let w := signExtendA (shifted20 acc)
  fix2f w.msb (magnitude w) fracA

/-- Temperature: `u2f(V) / 16.0`, `V = ACC[15:0] >> 4`, never sign-extended (R155). -/
def convertTemperature (acc : Word) : Word := fix2f false ((shifted12 acc).setWidth 20) fracT

/-- The exponent field, bits 30:23 (R156). -/
def expField (x : Word) : Nat := (x.extractLsb' 23 8).toNat

/-- The fraction field, bits 22:0 (R156). -/
def fracField (x : Word) : Nat := (x.extractLsb' 0 23).toNat

/-- The number a finite binary32 pattern stands for (R156): sign bit 31, exponent bias 127, a hidden
1 unless the exponent field is 0. Not meaningful for an exponent field of 255. -/
def f32Value (x : Word) : ℚ :=
  (if x.getLsbD 31 then -1 else 1) *
    (if expField x = 0 then (fracField x : ℚ) / 2 ^ 149
     else ((2 ^ 23 + fracField x : ℕ) : ℚ) * 2 ^ ((expField x : ℤ) - 150))

end Sys2Proof.Machine
end

