-- ==== Sys2Proof/Machine/Measurement.lean ====
section
/-!
DEFINITION. The measurement state machine ARM, POLL, READ, CONVERT, DONE (spec 42_measurement.md R130
to R140): what the three commands share is written once over the table of R130, and each command has
a meaning of its own (R135, R136, R137).
-/
namespace Sys2Proof.Machine

/-- The rows of R130's table. -/
inductive Quantity where
  | pressure
  | altitude
  | temperature
  deriving DecidableEq, Repr

/-- The ready mask (R130). -/
def readyMask (q : Quantity) (p : Params) : Byte :=
  match q with
  | .pressure => p.maskPdr
  | .altitude => p.maskPdr
  | .temperature => p.maskTdr

/-- The burst address (R130). -/
def burstAddr : Quantity → Byte
  | .pressure => regPMsb
  | .altitude => regPMsb
  | .temperature => regTMsb

/-- The burst length (R130): `N_PA` = 3, `N_T` = 2 (R4). -/
def burstLen : Quantity → ReadCount
  | .pressure => .three
  | .altitude => .three
  | .temperature => .two

/-- The CONVERT rule (R130). -/
def convert : Quantity → Word → Word
  | .pressure => convertPressure
  | .altitude => convertAltitude
  | .temperature => convertTemperature

/-- POLL.4 (R132): READ if the ready bit is set, else POLL.5. The level is tested (R138, R198). -/
def pollTest (q : Quantity) (here : MeasStep → Pc) (s : State) : State :=
  if readySet s.rb (readyMask q s.params) then { s with pc := here (.read .one) }
  else { s with pc := here .sleep }

/-- READ.0 clears `ACC` before its call (R133, R150); the other lines leave it. -/
def clearAcc (l : Line) (s : State) : State :=
  match l with
  | .one => { s with acc := 0 }
  | .two => s
  | .three => s
  | .four => s

/-- READ.0 to .3 (R133): one burst, assembled most significant byte first (R150). -/
def readBurst (q : Quantity) (here : MeasStep → Pc) (l : Line) (s : State) : State :=
  memRead (burstAddr q) (burstLen q) (fun k => here (.read k))
    (fun bs t => { t with acc := assemble (bs.bytes (burstLen q)), pc := here .convert }) l
    (clearAcc l s)

/-- One step of POLL, READ, CONVERT or DONE (R132, R133, R134); `here` names the steps of the
command that runs it. -/
def measureStep (q : Quantity) (here : MeasStep → Pc) (m : MeasStep) (s : State) : State :=
  match m with
  | .poll l => memReadByte regStatus (fun k => here (.poll k)) (here .test) l s
  | .test => pollTest q here s
  | .sleep => sleepCall (here (.poll .one)) s
  | .read l => readBurst q here l s
  | .convert => { s with res := convert q s.acc, pc := here .done }
  | .done => finish s

/-- `GETP` (R135), one step: accepted at `IDLE` (R24), ARM with `CW_ARM_BAR` (R131), then the shared
steps. While another command runs it is not accepted and waits (R24). -/
def execGetp (s : State) : Host.Outcome State Fault Refusal :=
  .next <|
    match s.pc with
    | .idle => accept (encode .getp) (.getp (.arm .one)) s
    | .getp (.arm l) =>
      memWrite regCtrl1 s.params.cwArmBar (fun k => .getp (.arm k)) (.getp (.meas (.poll .one))) l s
    | .getp (.meas m) => measureStep .pressure (fun k => .getp (.meas k)) m s
    | _ => s

/-- `GETA` (R136), one step: accepted at `IDLE` (R24), ARM with `CW_ARM_ALT` (R131), then the shared
steps. While another command runs it is not accepted and waits (R24). -/
def execGeta (s : State) : Host.Outcome State Fault Refusal :=
  .next <|
    match s.pc with
    | .idle => accept (encode .geta) (.geta (.arm .one)) s
    | .geta (.arm l) =>
      memWrite regCtrl1 cwArmAlt (fun k => .geta (.arm k)) (.geta (.meas (.poll .one))) l s
    | .geta (.meas m) => measureStep .altitude (fun k => .geta (.meas k)) m s
    | _ => s

/-- `GETT` (R137), one step: accepted at `IDLE` (R24), no ARM (90_conflicts.md C2), the shared steps.
While another command runs it is not accepted and waits (R24). -/
def execGett (s : State) : Host.Outcome State Fault Refusal :=
  .next <|
    match s.pc with
    | .idle => accept (encode .gett) (.gett (.poll .one)) s
    | .gett m => measureStep .temperature (fun k => .gett k) m s
    | _ => s

end Sys2Proof.Machine
end

