-- ==== Sys2Proof/Machine/Dispatch.lean ====
section
/-!
DEFINITION. One arm for each command of spec/opcode_table.json.
-/
namespace Sys2Proof.Machine

def exec (i : Instr) (s : State) : Host.Outcome State Fault Refusal :=
  match i with
  | .init => Sys2Proof.Machine.execInit s
  | .getp => Sys2Proof.Machine.execGetp s
  | .geta => Sys2Proof.Machine.execGeta s
  | .gett => Sys2Proof.Machine.execGett s
  | .rdreg a => Sys2Proof.Machine.execRdreg a s
  | .wrreg a d => Sys2Proof.Machine.execWrreg a d s

end Sys2Proof.Machine
end

