-- ==== Sys2Proof/Machine/Sequencer.lean ====
section
/-!
DEFINITION. One step of SFEC: reset, or one step of the running command, or the acceptance of an
offered command word (spec 10_state.md R20, R24; 70_reset_and_hazards.md R190, R204), and how a
command word is placed on the command port.
-/
namespace Sys2Proof.Machine

/-- The command whose step list `pc` is in, with its operands from `CMD` (R20, R24); none at `IDLE`. -/
def Pc.running (p : Pc) (cmd : CmdWord) : Option Instr :=
  match p with
  | .idle => none
  | .init _ => some .init
  | .getp _ => some .getp
  | .geta _ => some .geta
  | .gett _ => some .gett
  | .rdreg _ => some (.rdreg (cmdA cmd))
  | .wrreg _ => some (.wrreg (cmdA cmd) (cmdD cmd))

/-- The acceptance of the word `w`, already taken from the port: a legal word begins its command, a
reserved one raises `IllegalCommand` (R24, R86). -/
def acceptWord (w : CmdWord) (s : State) : Host.Outcome State Fault Refusal :=
  match decode w with
  | .ok i => exec i s
  | .error _ => .next (acceptReserved w s)

/-- At `IDLE`: accept the first offered word, or wait for one (R24, R177). -/
def idleStep (s : State) : Host.Outcome State Fault Refusal :=
  match s.port with
  | [] => .next s
  | w :: ws => acceptWord w { s with port := ws }

/-- While a command runs: its next step, unless another agent uses the transport or the sensor or has
done so during the run, which then has no meaning (R61, R196). Offered words wait (R24). -/
def runStep (i : Instr) (s : State) : Host.Outcome State Fault Refusal :=
  if s.foreignUse || s.disturbed then .refused .exclusiveAccessViolated else exec i s

/-- One step. A reset "may be applied at any time" (R190). -/
def sequencerStep (s : State) : Host.Outcome State Fault Refusal :=
  if s.resetReq then .next (applyReset s)
  else
    match s.pc.running s.cmd with
    | some i => runStep i s
    | none => idleStep s

/-- The state in which the word `w` is the next to be accepted: offered on the port before all
others, `pc = IDLE` with `BUSY` equal to it (R25), no call in progress, no run that could be
disturbed and no reset requested. -/
def placeWord (w : CmdWord) (s : State) : State :=
  { s with
    port := w :: s.port
    pc := .idle
    busy := false
    inFlight := none
    resetReq := false
    disturbed := false }

end Sys2Proof.Machine
end

