-- ==== Sys2Proof/Machine/Step.lean ====
section
/-!
DEFINITION. The step of the machine and the placing of an instruction where the next step takes it:
SFEC fetches nothing (spec 20_memory.md R62), a command word is offered on the command port (log
entry 5).
-/
namespace Sys2Proof.Machine

def step (s : State) : Host.Outcome State Fault Refusal := sequencerStep s

/-- `s` with the word offered on the command port so that the next step accepts it. -/
def State.withFetchWord (s : State) (nbits w : Nat) : State :=
  placeWord (BitVec.ofNat 24 (w % 2 ^ nbits)) s

end Sys2Proof.Machine
end

