-- ==== Sys2Proof/Machine/HostPort.lean ====
section
/-!
DEFINITION. The host's side of SFEC (spec 70_reset_and_hazards.md R204): the output registers a host
reads, when they mean something (10_state.md R23, R26, R29), and everything the environment can do
to the machine between two steps, which is to drive its inputs.
-/
namespace Sys2Proof.Machine

/-- The output registers (R9(b)). -/
structure Outputs where
  busy : Bool
  done : Bool
  ok : Bool
  err : BitVec 2
  terr : TErr
  res : Word
  rb : Byte
  deriving DecidableEq, Repr

/-- What a host read shows, at any time; a read has no effect on SFEC (R204). -/
def State.outputs (s : State) : Outputs :=
  { busy := s.busy, done := s.done, ok := s.ok, err := s.err, terr := s.terr, res := s.res, rb := s.rb }

/-- The word's command is `GETP`, `GETA` or `GETT`. -/
def isMeasurement (w : CmdWord) : Bool :=
  match decode w with
  | .ok .getp => true
  | .ok .geta => true
  | .ok .gett => true
  | .ok .init => false
  | .ok (.rdreg _) => false
  | .ok (.wrreg _ _) => false
  | .error _ => false

/-- `RES` is meaningful "only when `DONE = 1`, `ERR = 0` and the last accepted command was `GETP`,
`GETA` or `GETT`" (R23). -/
def State.resMeaningful (s : State) : Bool := s.done && s.err == 0 && isMeasurement s.cmd

/-- `TERR` is "meaningful only while `ERR = 2`" (R29). -/
def State.terrMeaningful (s : State) : Bool := s.err == 2

/-- What the environment can do between two steps (R204, R61). -/
inductive HostMove where
  /-- Drive the command port: the words offered and waiting, in the order they will be served. Any
  order may be set, because the service order of several callers is not defined (R194). -/
  | drivePort (ws : List CmdWord)
  /-- Request a reset (R190). -/
  | requestReset
  /-- Fix the transport's next answers (R64). -/
  | scriptAnswers (as : List Answer)
  /-- Fix whether the next sleeps have returned (R88). -/
  | scriptWakes (ws : List Bool)
  /-- Another agent begins or ends its use of the transport or the sensor (R61). -/
  | setForeignUse (b : Bool)
  deriving DecidableEq, Repr

/-- A host move changes an input field and no register. Another agent's use that begins during a run
disturbs the run for good, also when it ends before the next step (R61, R196). -/
def HostMove.apply (m : HostMove) (s : State) : State :=
  match m with
  | .drivePort ws => { s with port := ws }
  | .requestReset => { s with resetReq := true }
  | .scriptAnswers as => { s with answers := as }
  | .scriptWakes ws => { s with wakes := ws }
  | .setForeignUse b =>
    { s with foreignUse := b, disturbed := s.disturbed || (b && decide (s.pc ≠ .idle)) }

end Sys2Proof.Machine
end

