-- ==== Sys2Proof/Machine/Trace.lean ====
section
/-!
DEFINITION. Views of the trace (spec 00_scope.md R9): the two transaction shapes (30_encoding.md
R89), the call each step of a step list makes, and the protocol the calls of a trace follow, with the
transport's transaction context (10_state.md R38) as one of its phases.
-/
namespace Sys2Proof.Machine

/-- The calls on `T` and `H` so far, with their arguments, the one in progress last (R9). -/
def State.calls (s : State) : List Call := s.trace.map Event.call ++ s.inFlight.toList

/-- The completed write shape `W(addr, v)` (R89). -/
def writeShape (addr v : Byte) : List Event :=
  [⟨.start devAddr, .ok []⟩, ⟨.write addr, .ok []⟩, ⟨.write v, .ok []⟩, ⟨.endTx false, .ok []⟩]

/-- The completed read shape `R(addr, n) -> bs` (R89). -/
def readShape (addr : Byte) (n : ReadCount) (bs : Burst) : List Event :=
  [⟨.start devAddr, .ok []⟩, ⟨.write addr, .ok []⟩, ⟨.endTx true, .ok []⟩,
   ⟨.read devAddr n, .ok (bs.bytes n)⟩]

/-- The event `S(10)` (R90). -/
def sleepEvent : Event := ⟨.sleep pollInterval, .ok []⟩

/-! ## The call of each step -/

/-- The call of a line of `MemRead(addr, n)` (R100, R102). -/
def memReadCall (addr : Byte) (n : ReadCount) : Line → Call
  | .one => .start devAddr
  | .two => .write addr
  | .three => .endTx true
  | .four => .read devAddr n

/-- The call of a line of `MemWrite(addr, 1, v)` (R101). -/
def memWriteCall (addr v : Byte) : Line → Call
  | .one => .start devAddr
  | .two => .write addr
  | .three => .write v
  | .four => .endTx false

/-- The call of a step of `INIT` (R120). -/
def initCall (p : Params) : InitStep → Option Call
  | .begin => some .begin
  | .idRead l => some (memReadCall regId .one l)
  | .check => none
  | .ctrlWrite l => some (memWriteCall regCtrl1 cwInit l)
  | .evcfgWrite l => some (memWriteCall regEvcfg p.evcfgInit l)
  | .finish => none

/-- The call of a step the measurements share (R132, R133, R134). -/
def measCall (q : Quantity) : MeasStep → Option Call
  | .poll l => some (memReadCall regStatus .one l)
  | .test => none
  | .sleep => some (.sleep pollInterval)
  | .read l => some (memReadCall (burstAddr q) (burstLen q) l)
  | .convert => none
  | .done => none

/-- The one call the step `pc` makes, if it makes one (R20; R103, R104, R120, R135, R136, R137). -/
def Pc.call (p : Pc) (params : Params) (cmd : CmdWord) : Option Call :=
  match p with
  | .idle => none
  | .init st => initCall params st
  | .getp (.arm l) => some (memWriteCall regCtrl1 params.cwArmBar l)
  | .getp (.meas m) => measCall .pressure m
  | .geta (.arm l) => some (memWriteCall regCtrl1 cwArmAlt l)
  | .geta (.meas m) => measCall .altitude m
  | .gett m => measCall .temperature m
  | .rdreg (.xfer l) => some (memReadCall (cmdA cmd) .one l)
  | .rdreg .finish => none
  | .wrreg (.xfer l) => some (memWriteCall (cmdA cmd) (cmdD cmd) l)
  | .wrreg .finish => none

/-- The call the command `i` makes in the step `p`, if `p` is in its step list and makes one. -/
def commandCall (i : Instr) (p : Pc) (params : Params) : Option Call :=
  if p.running (encode i) = some i then p.call params (encode i) else none

/-- The call the machine's next step makes. -/
def State.nextCall (s : State) : Option Call := s.pc.call s.params s.cmd

/-- The quantity and the shared step of a running measurement. -/
def Pc.measuring : Pc → Option (Quantity × MeasStep)
  | .getp (.meas m) => some (.pressure, m)
  | .geta (.meas m) => some (.altitude, m)
  | .gett m => some (.temperature, m)
  | .getp (.arm _) => none
  | .geta (.arm _) => none
  | .idle => none
  | .init _ => none
  | .rdreg _ => none
  | .wrreg _ => none

/-! ## The protocol -/

/-- Where the last transaction stands, as far as the calls made tell (R89, R38). -/
inductive TxPhase where
  /-- No transaction has been begun, or the last one ended. -/
  | free
  /-- After `T.start`. -/
  | started
  /-- After the register address. -/
  | addressed
  /-- After the data byte of a write. -/
  | dataSent
  /-- After `T.end(1)`: the transaction context of R38 is open. -/
  | held
  deriving DecidableEq, Repr

/-- The phase after a call that returned `ok`; none if no shape of R89 has the call there. `T.begin`
and `T.start` may come in any phase, because a run that an error or a reset ended leaves its
transaction where it stood and the next command begins "regardless" (R190, R201). DESIGN CHOICE, safe,
log entry 12: after `T.begin` the phase is `free`, and after `T.start` it is `started`, whatever an
earlier run left open; what the transport does with an open transaction then is not said (R192, R201,
U9, 91_not_in_source.md N20). -/
def TxPhase.afterCall (p : TxPhase) (c : Call) : Option TxPhase :=
  match c with
  | .begin => some .free
  | .start a7 => if a7 = devAddr then some .started else none
  | .write _ =>
    match p with
    | .started => some .addressed
    | .addressed => some .dataSent
    | .free => none
    | .dataSent => none
    | .held => none
  | .endTx true => if p = .addressed then some .held else none
  | .endTx false => if p = .dataSent then some .free else none
  | .read a7 _ => if p = .held ∧ a7 = devAddr then some .free else none
  | .sleep ms => if p = .free ∧ ms = pollInterval then some .free else none

/-- The phase after one event. A call that failed, or did not return before a reset, must be in place
too; it leaves the transaction where it stood, as far as SFEC knows (R172, R190, R201). -/
def TxPhase.after (p : TxPhase) (e : Event) : Option TxPhase :=
  match e.reply with
  | .ok _ => p.afterCall e.call
  | .err _ => (p.afterCall e.call).map fun _ => p
  | .unreturned => (p.afterCall e.call).map fun _ => p

/-- The phase after a trace; none if some call of it is out of place (R89). -/
def tracePhase (es : List Event) : Option TxPhase :=
  es.foldl (fun p e => p.bind fun q => q.after e) (some .free)

/-- The phase in which a line of `MemRead` makes its call. -/
def memReadPhase : Line → TxPhase
  | .one => .free
  | .two => .started
  | .three => .addressed
  | .four => .held

/-- The phase in which a line of `MemWrite` makes its call. -/
def memWritePhase : Line → TxPhase
  | .one => .free
  | .two => .started
  | .three => .addressed
  | .four => .dataSent

/-- The phase at a shared step of a measurement. -/
def MeasStep.phase : MeasStep → TxPhase
  | .poll l => memReadPhase l
  | .read l => memReadPhase l
  | .test => .free
  | .sleep => .free
  | .convert => .free
  | .done => .free

/-- The phase of the transaction at a sequencer state (R38: open exactly between lines 3 and 4 of
`MemRead`). -/
def Pc.phase : Pc → TxPhase
  | .idle => .free
  | .init (.idRead l) => memReadPhase l
  | .init (.ctrlWrite l) => memWritePhase l
  | .init (.evcfgWrite l) => memWritePhase l
  | .init .begin => .free
  | .init .check => .free
  | .init .finish => .free
  | .getp (.arm l) => memWritePhase l
  | .getp (.meas m) => m.phase
  | .geta (.arm l) => memWritePhase l
  | .geta (.meas m) => m.phase
  | .gett m => m.phase
  | .rdreg (.xfer l) => memReadPhase l
  | .rdreg .finish => .free
  | .wrreg (.xfer l) => memWritePhase l
  | .wrreg .finish => .free

/-- `IDLE` and the first step of each step list: where a transaction of an earlier run may have been
left unfinished (R190, R201). Each of these first steps calls `T.begin` or `T.start`. -/
def Pc.opens : Pc → Bool
  | .idle => true
  | .init .begin => true
  | .getp (.arm .one) => true
  | .geta (.arm .one) => true
  | .gett (.poll .one) => true
  | .rdreg (.xfer .one) => true
  | .wrreg (.xfer .one) => true
  | .init (.idRead _) => false
  | .init .check => false
  | .init (.ctrlWrite _) => false
  | .init (.evcfgWrite _) => false
  | .init .finish => false
  | .getp _ => false
  | .geta _ => false
  | .gett _ => false
  | .rdreg _ => false
  | .wrreg _ => false

end Sys2Proof.Machine
end

