-- ==== Sys2Proof/Safety.lean ====
section
/-!
DEFINITION. What counts as a safe state of SFEC, in the terms the claims use: the invariant `Invariant`, the
states the machine and its environment can reach, the premise of an undisturbed machine, and the
relation of two states that differ only in output registers no step reads.
-/
namespace Sys2Proof.Machine

/-- No reset is requested and no other agent uses the transport or the sensor or has done so during the
run: the premise of a run that is neither abandoned (R190) nor without meaning (R61). -/
def State.Undisturbed (s : State) : Prop :=
  s.resetReq = false ∧ s.foreignUse = false ∧ s.disturbed = false

/-- The poll has seen the ready bit: the steps after POLL (R138). -/
def MeasStep.afterReady : MeasStep → Bool
  | .poll _ => false
  | .test => false
  | .sleep => false
  | .read _ => true
  | .convert => true
  | .done => true

/-- The identity check has been passed: the steps after INIT.5 (R121, R122). -/
def InitStep.afterCheck : InitStep → Bool
  | .begin => false
  | .idRead _ => false
  | .check => false
  | .ctrlWrite _ => true
  | .evcfgWrite _ => true
  | .finish => true

/-- The bits of `ACC` a burst of `n` bytes can reach (R150). -/
def accBound : ReadCount → Nat
  | .one => 2 ^ 8
  | .two => 2 ^ 16
  | .three => 2 ^ 24

/-- What holds in every state SFEC can be in. -/
structure Invariant (s : State) : Prop where
  /-- `BUSY = 1` if and only if `pc ≠ IDLE` (R25). -/
  busy_iff : s.busy = true ↔ s.pc ≠ .idle
  /-- While a command runs `DONE = 0` and `ERR = 0` (R24, R26, R28). -/
  running_flags : s.pc ≠ .idle → s.done = false ∧ s.err = 0
  /-- With no command run since the last reset, `OK = 0` and `ERR = 0` (R41). -/
  fresh_flags : s.pc = .idle → s.done = false → s.ok = false ∧ s.err = 0
  /-- While a command runs, `CMD` is its word (R24). -/
  running_cmd : ∀ i, s.pc.running s.cmd = some i → decode s.cmd = .ok i
  /-- `OK = 0` while `INIT` runs (R27). -/
  init_ok : ∀ st, s.pc = .init st → s.ok = false
  /-- Past the identity check `RB` is the expected byte (R121). -/
  init_identity : ∀ st, s.pc = .init st → st.afterCheck = true → s.rb = idExpected
  /-- No burst read before the ready bit has been seen set (R138). -/
  read_after_ready : ∀ q m, s.pc.measuring = some (q, m) → m.afterReady = true →
    readySet s.rb (readyMask q s.params) = true
  /-- At CONVERT the accumulator holds no more than the burst (R150). -/
  acc_bound : ∀ q, s.pc.measuring = some (q, .convert) → s.acc.toNat < accBound (burstLen q)
  /-- The call in progress is the call of the current step (R7, R20). -/
  in_flight : ∀ c, s.inFlight = some c → s.nextCall = some c
  /-- Only a run is disturbed, and a use by another agent during a run disturbs it (R61). -/
  disturbed_run : s.disturbed = true → s.pc ≠ .idle
  foreign_disturbs : s.pc ≠ .idle → s.foreignUse = true → s.disturbed = true
  /-- The trace consists of the shapes of R89, and the current one stands where `pc` says (R38), but
  that before the first call of a run an earlier one may have been left unfinished (R190, R201). -/
  trace_phase : ∃ p, tracePhase s.trace = some p ∧ (p = s.pc.phase ∨ s.pc.opens = true)
  /-- The parameters meet R5. -/
  legal_params : LegalParams s.params

/-- A state right after reset, before any input: R41's flags, and any value where R41 says
"unspecified" and where R5 leaves a parameter open. -/
def State.Initial (s : State) : Prop :=
  LegalParams s.params ∧
    ∃ acc rb res cmd terr draws,
      s = { State.reset with
            params := s.params, acc := acc, rb := rb, res := res, cmd := cmd, terr := terr, draws := draws }

/-- The states the machine can reach under any environment (R204). -/
inductive Reachable : State → Prop where
  | initial {s : State} (h : s.Initial) : Reachable s
  | step {s t : State} (h : Reachable s) (e : Sys2Proof.Machine.step s = .next t) : Reachable t
  | host {s : State} (h : Reachable s) (m : HostMove) : Reachable (m.apply s)

/-- Two states that agree on everything but the output registers R30 calls results, not inputs:
`RES`, `OK`, `ERR`, `TERR`, `DONE`. -/
def State.SameButResults (s t : State) : Prop :=
  t = { s with res := t.res, ok := t.ok, err := t.err, terr := t.terr, done := t.done }

/-- A register that is the same in two states `t`, `t'`, or in each what it was in `s`, `s'`: its new
value depends on nothing in which `s` and `s'` differ. -/
def SameOrKept {α : Type} (x : State → α) (s s' t t' : State) : Prop :=
  x t' = x t ∨ (x t = x s ∧ x t' = x s')

/-- What `n` steps of the machine end in. -/
def runSteps : Nat → State → Host.Outcome State Fault Refusal
  | 0, s => .next s
  | n + 1, s =>
    match step s with
    | .next t => runSteps n t
    | .fault r => .fault r
    | .refused r => .refused r

/-- The four answers to the calls of one transaction, all `ok`. -/
structure Acks where
  b1 : Burst
  b2 : Burst
  b3 : Burst
  b4 : Burst
  deriving DecidableEq, Repr

/-- A script of a transaction in which every call returns `ok` (R64). -/
def Acks.answers (p : Acks) : List Answer := [.ok p.b1, .ok p.b2, .ok p.b3, .ok p.b4]

/-- The trace of polls that found the ready bit clear: `R(0x00, 1) -> [s] ; S(10)` each (R135). -/
def notReadyTrace (ps : List Acks) : List Event :=
  ps.flatMap fun p => readShape regStatus .one p.b4 ++ [sleepEvent]

/-- The status byte `rb` of the last of the polls, `old` if there was none. -/
def lastStatus (ps : List Acks) (old : Byte) : Byte := ps.foldl (fun _ p => p.b4.b0) old

/-- What a step of the command `i` leaves unchanged: the parameters and the inputs that are not
answers; `CMD` but at acceptance; `TERR` but by a bus error; the flags but at acceptance and at the end
of the run; and the trace and the call in progress but for the call `i`'s step list names there. -/
structure SharedFrame (i : Instr) (s t : State) : Prop where
  params : t.params = s.params
  port : t.port = s.port
  resetReq : t.resetReq = s.resetReq
  foreignUse : t.foreignUse = s.foreignUse
  disturbed : s.pc ≠ .idle → t.disturbed = s.disturbed
  cmd : s.pc ≠ .idle → t.cmd = s.cmd
  terr : t.terr = s.terr ∨ t.err = 2
  flags : s.pc ≠ .idle → t.pc ≠ .idle → t.busy = s.busy ∧ t.done = s.done ∧ t.err = s.err
  trace : t.trace = s.trace ∨
    ∃ c r, commandCall i s.pc s.params = some c ∧ t.trace = s.trace ++ [⟨c, r⟩]
  inFlight : t.inFlight = s.inFlight ∨ t.inFlight = none ∨
    ∃ c, commandCall i s.pc s.params = some c ∧ t.inFlight = some c

end Sys2Proof.Machine
end

