-- ==== Sys2Proof/Certificates/Slice0/Obligations.lean ====
section
/-!
DEFINITION. The statements about SFEC, each after a rule or a passage of spec/ that its docstring
names. "Undisturbed" is `State.Undisturbed`: no reset requested (R190) and no other agent on the bus,
now or earlier in the run (R61). Scripts of answers are the oracle's (R64); a statement that takes any state takes any script,
and free values after it.
-/

open Sys2Proof Sys2Proof.Machine

/-! ## Encoding -/

/-- 95_test_vectors.md V-ENC: words written out from the field layout of R80 and the map of R85. -/
def Obligations.SampleWordsDecode : Prop :=
  decode 0b000000010000000000000000 = .ok .init ∧
  decode 0b000000100000000000000000 = .ok .getp ∧
  decode 0b000000110000000000000000 = .ok .geta ∧
  decode 0b000001000000000000000000 = .ok .gett ∧
  decode 0b000100000000110000000000 = .ok (.rdreg 0x0C) ∧
  decode 0b000100011010010101011010 = .ok (.wrreg 0xA5 0x5A) ∧
  decode 0x010001 = .error .formatZOperand ∧
  decode 0x01FF00 = .error .formatZOperand ∧
  decode 0x100C01 = .error .formatAData ∧
  decode 0x050000 = .error .opcode ∧
  decode 0x120000 = .error .opcode

/-- No bit of an encoding is dropped: every well-formed command, with every operand value, is read
back from its word. -/
def Obligations.DecodeOfEncode : Prop :=
  ∀ i : Instr, i.wellFormed = true → decode (encode i) = .ok i

/-- Each command has one word only: a word that decodes is the encoding of what it decodes to. -/
def Obligations.EncodeOfDecode : Prop :=
  ∀ (w : CmdWord) (i : Instr), decode w = .ok i → encode i = w

/-- R85: the map has the six rows of the table; a word selects a row when `w & mask = match`; the
decoder reads the row's command from exactly those words; the rows are disjoint; a word that selects
none is reserved. -/
def Obligations.DecodeFollowsOpcodeMap : Prop :=
  (opcodeMap.map fun r => (r.mnemonic, r.pattern, r.mask)) =
    [("INIT", 0x010000, 0xFFFFFF), ("GETP", 0x020000, 0xFFFFFF), ("GETA", 0x030000, 0xFFFFFF),
     ("GETT", 0x040000, 0xFFFFFF), ("RDREG", 0x100000, 0xFF00FF), ("WRREG", 0x110000, 0xFF0000)] ∧
  (∀ (w : CmdWord) (r : OpcodeRow), r ∈ opcodeMap → (r.selects w = true ↔ w &&& r.mask = r.pattern)) ∧
  (∀ (w : CmdWord) (r : OpcodeRow), r ∈ opcodeMap →
    (r.selects w = true ↔ ∃ i, decode w = .ok i ∧ i.mnemonic = r.mnemonic)) ∧
  (∀ (w : CmdWord) (r r' : OpcodeRow), r ∈ opcodeMap → r' ∈ opcodeMap →
    r.selects w = true → r'.selects w = true → r = r') ∧
  (∀ w : CmdWord, (∀ r ∈ opcodeMap, r.selects w = false) ↔ ∃ x, decode w = .error x)

/-- The three kinds of reserved word of R86, and that the formats of R81 to R83 exclude the same
words. -/
def Obligations.ReservedWordsClassified : Prop :=
  ∀ w : CmdWord,
    (decode w = .error .opcode ↔
      cmdOp w = 0 ∨ (5 ≤ (cmdOp w).toNat ∧ (cmdOp w).toNat ≤ 0x0F) ∨ 0x12 ≤ (cmdOp w).toNat) ∧
    (decode w = .error .formatZOperand ↔
      (1 ≤ (cmdOp w).toNat ∧ (cmdOp w).toNat ≤ 4) ∧ (cmdA w ≠ 0 ∨ cmdD w ≠ 0)) ∧
    (decode w = .error .formatAData ↔ cmdOp w = 0x10 ∧ cmdD w ≠ 0) ∧
    (wordWellFormed w = true ↔ ∃ i, decode w = .ok i)

/-! ## The step -/

/-- A step runs the decoded instruction: at `IDLE` the first word offered, taken from the port; while
a command runs, the command `CMD` decodes to, when `pc` is in its step list; with no word offered
SFEC stays as it is. -/
def Obligations.StepRunsDecodedCommand : Prop :=
  (∀ (s : State) (w : CmdWord) (ws : List CmdWord) (i : Instr),
    s.resetReq = false → s.pc = .idle → s.port = w :: ws → decode w = .ok i →
    step s = exec i { s with port := ws }) ∧
  (∀ (s : State) (i : Instr),
    s.Undisturbed → s.pc.running s.cmd = some i → decode s.cmd = .ok i → step s = exec i s) ∧
  (∀ s : State, s.resetReq = false → s.pc = .idle → s.port = [] → step s = .next s)

/-- R24: the acceptance of a legal word at `IDLE`, for every command. `OK` is cleared by `INIT` only. A
run accepted while another agent uses the bus is disturbed from the start (log entry 9). -/
def Obligations.AcceptanceLatchesCommand : Prop :=
  ∀ (s : State) (i : Instr), s.pc = .idle →
    ∃ first, first.running (encode i) = some i ∧
      exec i s = .next
        { s with
          cmd := encode i
          busy := true
          done := false
          err := 0
          ok := if i = .init then false else s.ok
          disturbed := s.foreignUse
          pc := first }

/-- R24 and R20: which step each command begins with. -/
def Obligations.AcceptanceGoesToFirstStep : Prop :=
  ∀ (s t : State) (i : Instr), s.pc = .idle → exec i s = .next t →
    t.pc = match i with
      | .init => .init .begin
      | .getp => .getp (.arm .one)
      | .geta => .geta (.arm .one)
      | .gett => .gett (.poll .one)
      | .rdreg _ => .rdreg (.xfer .one)
      | .wrreg _ _ => .wrreg (.xfer .one)

/-- 10_state.md section 2 with 60_exceptions.md sections 1 and 3: accepting a word that selects no row
latches it and raises `IllegalCommand` at once; no call is made and nothing goes to the trace. That
`OK` is cleared for a reserved word with `INIT`'s operation code is log entry 15 (DEDUCED, from R24 and
95_test_vectors.md V-E2). -/
def Obligations.ReservedWordRaisesIllegalCommand : Prop :=
  ∀ (s : State) (w : CmdWord) (ws : List CmdWord),
    s.resetReq = false → s.pc = .idle → s.port = w :: ws →
    (∀ r ∈ opcodeMap, r.selects w = false) →
    step s = .next
      { s with
        port := ws
        cmd := w
        err := 3
        ok := if cmdOp w = 0x01 then false else s.ok
        busy := false
        done := true
        pc := .idle }

/-- A command offered while another runs is not accepted and waits (R24; 95_test_vectors.md V-E8): no
step of a running command changes the port or `CMD`. -/
def Obligations.OfferedWordWaitsWhileRunning : Prop :=
  ∀ s t : State, s.resetReq = false → s.pc ≠ .idle → step s = .next t →
    t.port = s.port ∧ t.cmd = s.cmd

/-- A meaning applied while another command runs does nothing (R24; the model's reading, log entry
10). -/
def Obligations.OtherCommandNotAccepted : Prop :=
  ∀ (s : State) (i j : Instr), s.pc.running s.cmd = some j → i.mnemonic ≠ j.mnemonic →
    exec i s = .next s

/-- A run during which another agent uses the transport or the sensor, or has used it, has no meaning
(20_memory.md section 5), unless a reset abandons it (log entry 9). -/
def Obligations.ForeignUseRefused : Prop :=
  ∀ s : State, s.pc ≠ .idle → s.foreignUse = true ∨ s.disturbed = true →
    step s =
      if s.resetReq then .next (applyReset s) else .refused .exclusiveAccessViolated

/-- 70_reset_and_hazards.md section 3 (R196): once another agent has begun to use the bus during a run,
nothing the environment does afterwards, the end of that use included, lets the run go on: until a
reset is requested, its step is refused. -/
def Obligations.DisturbanceIsNotForgotten : Prop :=
  ∀ (s : State) (ms : List HostMove), s.pc ≠ .idle →
    (ms.foldl (fun u m => m.apply u) ((HostMove.setForeignUse true).apply s)).resetReq = false →
    step (ms.foldl (fun u m => m.apply u) ((HostMove.setForeignUse true).apply s)) =
      .refused .exclusiveAccessViolated

/-! ## Reset -/

/-- State.reset: the values R41 gives. The data registers' values are the model's choice (log entry
1) and not stated here. -/
def Obligations.ResetStateFlags : Prop :=
  State.reset.pc = .idle ∧ State.reset.busy = false ∧ State.reset.done = false ∧
  State.reset.ok = false ∧ State.reset.err = 0 ∧ State.reset.calls = [] ∧
  State.reset.params = referenceParams

/-- The reset action (70_reset_and_hazards.md section 1): at any time, also during a run, it sets `pc`
and the flags, makes no call, leaves the calls already made, and touches no input but the request.
What the data registers then hold is not stated: they are free. -/
def Obligations.ResetActionAbandonsRun : Prop :=
  ∀ s : State, s.resetReq = true →
    ∃ t, step s = .next t ∧ t.pc = .idle ∧ t.busy = false ∧ t.done = false ∧ t.ok = false ∧
      t.err = 0 ∧ t.inFlight = none ∧ t.calls = s.calls ∧ t.resetReq = false ∧
      t.params = s.params ∧ t.port = s.port ∧ t.answers = s.answers ∧ t.wakes = s.wakes ∧
      t.foreignUse = s.foreignUse ∧ t.disturbed = false

/-! ## Invariants -/

/-- The invariant is kept by every step, from every state that has it. -/
def Obligations.StepKeepsInvariant : Prop :=
  ∀ s t : State, Invariant s → step s = .next t → Invariant t

/-- The invariant holds at reset. -/
def Obligations.ResetMeetsInvariant : Prop := Invariant State.reset

/-- The invariant is kept by everything the environment can do between two steps. -/
def Obligations.HostMovesKeepInvariant : Prop :=
  ∀ (s : State) (m : HostMove), Invariant s → Invariant (m.apply s)

/-- R25: `BUSY = 1` if and only if `pc ≠ IDLE`, in every state SFEC can be in under any environment. -/
def Obligations.BusyExactlyWhileRunning : Prop :=
  ∀ s : State, Reachable s → (s.busy = true ↔ s.pc ≠ .idle)

/-- R89 and R37: in every trace SFEC can make, each write, end, read and sleep stands where one of the
two shapes, or the poll, has it, every `T.start` and `T.read` carries the address 0x60 and every sleep
is of 10; `T.begin` and `T.start` may follow anything, because a run that an error or a reset ended leaves its transaction
unfinished (R190, R201). Once a run has made its first call, the current transaction stands exactly
where `pc` says. -/
def Obligations.TracesAreMadeOfShapes : Prop :=
  ∀ s : State, Reachable s →
    (∃ p, tracePhase s.trace = some p ∧ (p = s.pc.phase ∨ s.pc.opens = true)) ∧
    ∀ c ∈ s.calls,
      (∀ a7, c = .start a7 → a7 = 0x60) ∧ (∀ a7 n, c = .read a7 n → a7 = 0x60) ∧
      (∀ ms, c = .sleep ms → ms = 10)

/-- R59: while a run holds the bus after `T.end(1)`, it does nothing but the `T.read` of the same
transaction: the step stands at that call. -/
def Obligations.HeldBusOnlyReads : Prop :=
  ∀ s : State, Invariant s → s.pc.opens = false → tracePhase s.trace = some .held →
    ∃ n, s.nextCall = some (.read devAddr n)

/-! ## Calls -/

/-- R20, R105: a step of a step list makes the one call the list names, once; when it returns `ok`
the call and its bytes go to the trace and nothing ends. R88: so for `H.sleep(10)`, after which the
poll begins again. -/
def Obligations.OkAnswerCompletesTheNamedCall : Prop :=
  (∀ (s : State) (c : Call) (bs : Burst) (as : List Answer),
    s.Undisturbed → s.nextCall = some c → (∀ ms, c ≠ .sleep ms) → s.answers = .ok bs :: as →
    ∃ t, step s = .next t ∧ t.trace = s.trace ++ [⟨c, .ok (c.yields bs)⟩] ∧ t.inFlight = none ∧
      t.answers = as ∧ t.pc ≠ .idle ∧ t.pc ≠ s.pc ∧ t.busy = s.busy ∧ t.done = s.done ∧
      t.err = s.err ∧ t.terr = s.terr ∧ t.ok = s.ok ∧ t.res = s.res ∧ t.cmd = s.cmd) ∧
  (∀ (s : State) (q : Quantity) (ws : List Bool),
    s.Undisturbed → s.pc.measuring = some (q, .sleep) → s.wakes = true :: ws →
    ∃ p, p.measuring = some (q, .poll .one) ∧
      step s = .next
        { s with
          wakes := ws
          trace := s.trace ++ [⟨.sleep 10, .ok []⟩]
          inFlight := none
          pc := p })

/-- R105, R172 and R176: the first call that returns `err(e)` ends the run at once: `ERR = 2`,
`TERR = e` unchanged, no later call; `RES`, `RB`, `OK` and `CMD` keep what they held, and so does
`ACC`, but that READ.0 has cleared it (R133). -/
def Obligations.BusErrorEndsTheRun : Prop :=
  ∀ (s : State) (c : Call) (e : TErr) (as : List Answer),
    s.Undisturbed → s.nextCall = some c → (∀ ms, c ≠ .sleep ms) → s.answers = .err e :: as →
    step s = .next
      { s with
        acc := if s.pc.measuring.map Prod.snd = some (.read .one) then 0 else s.acc
        answers := as
        trace := s.trace ++ [⟨c, .err e⟩]
        inFlight := none
        err := 2
        terr := e
        busy := false
        done := true
        pc := .idle }

/-- R7, D9, R88 and U10: a call that has not returned, of the transport or `H.sleep(10)`, keeps SFEC in
its step, with `BUSY` as it was and nothing recorded. -/
def Obligations.PendingCallBlocks : Prop :=
  (∀ (s : State) (c : Call) (as : List Answer),
    s.Undisturbed → s.nextCall = some c → (∀ ms, c ≠ .sleep ms) → s.answers = .pending :: as →
    ∃ t, step s = .next t ∧ t.pc = s.pc ∧ t.busy = s.busy ∧ t.done = s.done ∧ t.trace = s.trace ∧
      t.inFlight = some c ∧ t.answers = as ∧ t.rb = s.rb ∧ t.res = s.res ∧ t.err = s.err) ∧
  (∀ (s : State) (q : Quantity) (ws : List Bool),
    s.Undisturbed → s.pc.measuring = some (q, .sleep) → s.wakes = false :: ws →
    step s = .next { s with wakes := ws, inFlight := some (.sleep 10) })

/-- R57 and R20: a step makes at most one call, and no call already made is ever taken back. -/
def Obligations.AtMostOneCallPerStep : Prop :=
  ∀ s t : State, Invariant s → step s = .next t →
    s.trace <+: t.trace ∧ (t.calls = s.calls ∨ ∃ c, s.nextCall = some c ∧ t.calls = s.calls ++ [c])

/-! ## Which steps write a register -/

/-- `RES` is written by the CONVERT step only, and by no other step of any command. -/
def Obligations.OnlyConvertWritesRes : Prop :=
  ∀ s t : State, s.resetReq = false → step s = .next t → t.res ≠ s.res →
    ∃ q, s.pc.measuring = some (q, .convert) ∧ t.res = convert q s.acc

/-- `ACC` is written in READ only: cleared at READ.0, assembled at READ.3 from the bytes of the burst
that the trace then ends with. -/
def Obligations.OnlyReadWritesAcc : Prop :=
  ∀ s t : State, s.resetReq = false → step s = .next t → t.acc ≠ s.acc →
    ∃ q, (s.pc.measuring = some (q, .read .one) ∧ t.acc = 0) ∨
      (s.pc.measuring = some (q, .read .four) ∧
        ∃ bs : Burst, t.acc = assemble (bs.bytes (burstLen q)) ∧
          t.trace = s.trace ++ [⟨.read 0x60 (burstLen q), .ok (bs.bytes (burstLen q))⟩])

/-- `RB` is written by a single-byte register read that returned, and by nothing else. -/
def Obligations.OnlyByteReadsWriteRb : Prop :=
  ∀ s t : State, s.resetReq = false → step s = .next t → t.rb ≠ s.rb →
    s.nextCall = some (.read devAddr .one) ∧
      t.trace = s.trace ++ [⟨.read devAddr .one, .ok [t.rb]⟩]

/-- `TERR` is written by a bus error only, with the value the transport returned: a step leaves it, or
its call failed with the new `TERR`. (Said without `t.terr ≠ s.terr`, because `TErr` may have one value
only.) -/
def Obligations.OnlyBusErrorWritesTerr : Prop :=
  ∀ s t : State, s.resetReq = false → step s = .next t →
    t.terr = s.terr ∨
      (t.err = 2 ∧ ∃ c, s.nextCall = some c ∧ t.trace = s.trace ++ [⟨c, .err t.terr⟩])

/-- `OK` is set by the last step of `INIT` and cleared by the acceptance of a word with `INIT`'s
operation code, and by nothing else. -/
def Obligations.OnlyInitWritesOk : Prop :=
  ∀ s t : State, s.resetReq = false → step s = .next t → t.ok ≠ s.ok →
    (t.ok = true ∧ s.pc = .init .finish) ∨
      (t.ok = false ∧ s.pc = .idle ∧ ∃ w ws, s.port = w :: ws ∧ cmdOp w = 0x01)

/-- `ERR` is cleared by acceptance and set by a raise: any other step leaves it. -/
def Obligations.ErrWrittenByAcceptanceAndRaise : Prop :=
  ∀ s t : State, s.resetReq = false → step s = .next t → t.err ≠ s.err →
    (s.pc = .idle ∧ (t.err = 0 ∨ t.err = 3)) ∨
      (t.pc = .idle ∧ t.done = true ∧
        ((t.err = 1 ∧ s.pc = .init .check) ∨ (t.err = 2 ∧ ∃ c, s.nextCall = some c)))

/-! ## Frames -/

/-- What `RDREG` leaves: `RES`, `ACC`, `OK`, and `RB` but at the return of its read (R103); and the trace
but for the call of its line of `MemRead(a, 1)`, so that it writes no register of the sensor. -/
def Obligations.RdregFrame : Prop :=
  ∀ (a : Byte) (s t : State), exec (.rdreg a) s = .next t →
    SharedFrame (.rdreg a) s t ∧ t.res = s.res ∧ t.acc = s.acc ∧ t.ok = s.ok ∧ t.wakes = s.wakes ∧
      (s.pc ≠ .rdreg (.xfer .four) → t.rb = s.rb) ∧
      (t.trace = s.trace ∨ ∃ l r, s.pc = .rdreg (.xfer l) ∧
        t.trace = s.trace ++ [⟨memReadCall a .one l, r⟩])

/-- What `WRREG` leaves: `RES`, `ACC`, `OK` and `RB` (R104); and the trace but for the call of its line of
`MemWrite(a, 1, d)`. -/
def Obligations.WrregFrame : Prop :=
  ∀ (a d : Byte) (s t : State), exec (.wrreg a d) s = .next t →
    SharedFrame (.wrreg a d) s t ∧ t.res = s.res ∧ t.acc = s.acc ∧ t.ok = s.ok ∧
      t.wakes = s.wakes ∧ t.rb = s.rb ∧
      (t.trace = s.trace ∨ ∃ l r, s.pc = .wrreg (.xfer l) ∧
        t.trace = s.trace ++ [⟨memWriteCall a d l, r⟩])

/-- What `INIT` leaves: `RES` and `ACC`; `RB` but at the return of the identity read; `OK` but at
acceptance and at INIT.14; and the trace but for the call its step list names (R120). -/
def Obligations.InitFrame : Prop :=
  ∀ s t : State, exec .init s = .next t →
    SharedFrame .init s t ∧ t.res = s.res ∧ t.acc = s.acc ∧ t.wakes = s.wakes ∧
      (s.pc ≠ .init (.idRead .four) → t.rb = s.rb) ∧
      (s.pc ≠ .idle → s.pc ≠ .init .finish → t.ok = s.ok) ∧
      (t.trace = s.trace ∨ ∃ st c r, s.pc = .init st ∧ initCall s.params st = some c ∧
        t.trace = s.trace ++ [⟨c, r⟩])

/-- What `GETP`, `GETA` and `GETT` leave: `OK`; `RES` but at CONVERT; `ACC` but at READ.0 and READ.3;
`RB` but at the return of a status read; and the trace but for the call of the step: after ARM, one of
the poll or of the quantity's burst (R135 to R137). -/
def Obligations.MeasurementFrame : Prop :=
  ∀ (i : Instr) (s t : State), i = .getp ∨ i = .geta ∨ i = .gett → exec i s = .next t →
    SharedFrame i s t ∧ t.ok = s.ok ∧
      ((∀ q, s.pc.measuring ≠ some (q, .convert)) → t.res = s.res) ∧
      ((∀ q, s.pc.measuring ≠ some (q, .read .one)) →
        (∀ q, s.pc.measuring ≠ some (q, .read .four)) → t.acc = s.acc) ∧
      ((∀ q, s.pc.measuring ≠ some (q, .poll .four)) → t.rb = s.rb) ∧
      (∀ q m, s.pc.measuring = some (q, m) → t.trace = s.trace ∨
        ∃ c r, measCall q m = some c ∧ t.trace = s.trace ++ [⟨c, r⟩])

/-! ## The commands, step by step

`exec` is the effect of the command; the premise of R61 is asked where `exec` is made a step. -/

/-- The steps of `RDREG`, `WRREG` and `INIT` in which they have their own effect: `RDREG`'s read
latches `RB`, `WRREG` sends the data byte and ends the transaction, and the last step of each ends
the run, `INIT`'s with `OK = 1` (R103, R104, R120). -/
def Obligations.TransactionCommandsComplete : Prop :=
  (∀ (s : State) (a : Byte) (bs : Burst) (as : List Answer),
    s.pc = .rdreg (.xfer .four) → s.answers = .ok bs :: as →
    exec (.rdreg a) s = .next
      { s with
        rb := bs.b0
        answers := as
        trace := s.trace ++ [⟨.read devAddr .one, .ok [bs.b0]⟩]
        inFlight := none
        pc := .rdreg .finish }) ∧
  (∀ (s : State) (a d : Byte) (bs : Burst) (as : List Answer),
    s.pc = .wrreg (.xfer .four) → s.answers = .ok bs :: as →
    exec (.wrreg a d) s = .next
      { s with
        answers := as
        trace := s.trace ++ [⟨.endTx false, .ok []⟩]
        inFlight := none
        pc := .wrreg .finish }) ∧
  (∀ (s : State) (a d : Byte) (bs : Burst) (as : List Answer),
    s.pc = .wrreg (.xfer .three) → s.answers = .ok bs :: as →
    exec (.wrreg a d) s = .next
      { s with
        answers := as
        trace := s.trace ++ [⟨.write d, .ok []⟩]
        inFlight := none
        pc := .wrreg (.xfer .four) }) ∧
  (∀ (s : State) (a : Byte), s.pc = .rdreg .finish →
    exec (.rdreg a) s = .next { s with busy := false, done := true, pc := .idle }) ∧
  (∀ (s : State) (a d : Byte), s.pc = .wrreg .finish →
    exec (.wrreg a d) s = .next { s with busy := false, done := true, pc := .idle }) ∧
  (∀ s : State, s.pc = .init .finish →
    exec .init s = .next { s with ok := true, busy := false, done := true, pc := .idle })

/-- R134: CONVERT computes `RES` from `ACC` by the command's rule, makes no call and cannot fail;
DONE ends the run. -/
def Obligations.MeasurementsConvertAndEnd : Prop :=
  ∀ s : State,
    (s.pc = .getp (.meas .convert) →
      exec .getp s = .next { s with res := convertPressure s.acc, pc := .getp (.meas .done) }) ∧
    (s.pc = .geta (.meas .convert) →
      exec .geta s = .next { s with res := convertAltitude s.acc, pc := .geta (.meas .done) }) ∧
    (s.pc = .gett .convert →
      exec .gett s = .next { s with res := convertTemperature s.acc, pc := .gett .done }) ∧
    (s.pc = .getp (.meas .done) →
      exec .getp s = .next { s with busy := false, done := true, pc := .idle }) ∧
    (s.pc = .geta (.meas .done) →
      exec .geta s = .next { s with busy := false, done := true, pc := .idle }) ∧
    (s.pc = .gett .done →
      exec .gett s = .next { s with busy := false, done := true, pc := .idle })

/-- R121: INIT.5 compares `RB` with 0xC4; it goes on to the control write if they are equal and
raises `DeviceNotFound` for every other byte, `RB` and `OK` kept. -/
def Obligations.IdentityCheckIsExact : Prop :=
  ∀ s : State, s.pc = .init .check →
    (s.rb = 0xC4 → exec .init s = .next { s with pc := .init (.ctrlWrite .one) }) ∧
    (s.rb ≠ 0xC4 →
      exec .init s = .next { s with err := 1, busy := false, done := true, pc := .idle })

/-- R132: POLL.4 tests the level of the mask's bit and no other: READ if it is set, POLL.5 if not. -/
def Obligations.PollTestsTheMaskedBit : Prop :=
  ∀ s : State,
    (s.pc = .getp (.meas .test) →
      exec .getp s = .next { s with pc :=
        if s.rb &&& s.params.maskPdr ≠ 0 then .getp (.meas (.read .one)) else .getp (.meas .sleep) }) ∧
    (s.pc = .geta (.meas .test) →
      exec .geta s = .next { s with pc :=
        if s.rb &&& s.params.maskPdr ≠ 0 then .geta (.meas (.read .one)) else .geta (.meas .sleep) }) ∧
    (s.pc = .gett .test →
      exec .gett s = .next { s with pc :=
        if s.rb &&& s.params.maskTdr ≠ 0 then .gett (.read .one) else .gett .sleep })

/-! ## The commands, whole

Each begins at `IDLE` with the command's word first on the port, undisturbed (R61). -/

/-- `RDREG a` from acceptance to `IDLE`, when its four calls return `ok` (R103). -/
def Obligations.RdregReadsOneRegister : Prop :=
  ∀ (s : State) (a : Byte) (x : Acks) (as : List Answer) (queue : List CmdWord),
    s.Undisturbed → s.pc = .idle → s.port = encode (.rdreg a) :: queue →
    s.answers = x.answers ++ as →
    runSteps 6 s = .next
      { s with
        port := queue
        cmd := encode (.rdreg a)
        rb := x.b4.b0
        err := 0
        busy := false
        done := true
        inFlight := none
        answers := as
        trace := s.trace ++ readShape a .one x.b4 }

/-- `WRREG a, d` from acceptance to `IDLE`, when its four calls return `ok` (R104). -/
def Obligations.WrregWritesOneRegister : Prop :=
  ∀ (s : State) (a d : Byte) (x : Acks) (as : List Answer) (queue : List CmdWord),
    s.Undisturbed → s.pc = .idle → s.port = encode (.wrreg a d) :: queue →
    s.answers = x.answers ++ as →
    runSteps 6 s = .next
      { s with
        port := queue
        cmd := encode (.wrreg a d)
        err := 0
        busy := false
        done := true
        inFlight := none
        answers := as
        trace := s.trace ++ writeShape a d }

/-- `INIT` with a present device: 13 calls, `OK = 1` (R120). -/
def Obligations.InitConfiguresPresentDevice : Prop :=
  ∀ (s : State) (b : Burst) (x y z : Acks) (as : List Answer) (queue : List CmdWord),
    s.Undisturbed → s.pc = .idle → s.port = encode .init :: queue →
    s.answers = .ok b :: (x.answers ++ y.answers ++ z.answers ++ as) →
    x.b4.b0 = 0xC4 →
    runSteps 16 s = .next
      { s with
        port := queue
        cmd := encode .init
        rb := 0xC4
        ok := true
        err := 0
        busy := false
        done := true
        inFlight := none
        answers := as
        trace := s.trace ++ [⟨.begin, .ok []⟩] ++ readShape 0x0C .one x.b4 ++ writeShape 0x26 0x3B ++
          writeShape 0x13 s.params.evcfgInit }

/-- `INIT` with a wrong device: the trace is exactly `T.begin() ; R(0x0C, 1)`, no register of the
sensor is written, and the run ends with `ERR = 1`, `OK = 0` (R121, R122). -/
def Obligations.InitWritesNothingToWrongDevice : Prop :=
  ∀ (s : State) (b : Burst) (x : Acks) (as : List Answer) (queue : List CmdWord),
    s.Undisturbed → s.pc = .idle → s.port = encode .init :: queue →
    s.answers = .ok b :: (x.answers ++ as) → x.b4.b0 ≠ 0xC4 →
    runSteps 7 s = .next
      { s with
        port := queue
        cmd := encode .init
        rb := x.b4.b0
        ok := false
        err := 1
        busy := false
        done := true
        inFlight := none
        answers := as
        trace := s.trace ++ [⟨.begin, .ok []⟩] ++ readShape 0x0C .one x.b4 }

/-- `GETP` whole, for any number of polls that find the bit clear: the writes, the trace of `12 + 5k`
calls, and the result are those of R135. -/
def Obligations.GetpMeasuresPressure : Prop :=
  ∀ (s : State) (arm ready data : Acks) (polls : List Acks) (as : List Answer) (ws : List Bool)
    (queue : List CmdWord),
    s.Undisturbed → s.pc = .idle → s.port = encode .getp :: queue →
    s.answers = arm.answers ++ (polls.flatMap Acks.answers ++ (ready.answers ++ (data.answers ++ as))) →
    s.wakes = List.replicate polls.length true ++ ws →
    (∀ p ∈ polls, p.b4.b0 &&& s.params.maskPdr = 0) → ready.b4.b0 &&& s.params.maskPdr ≠ 0 →
    runSteps (1 + 4 + 6 * polls.length + 5 + 4 + 2) s = .next
      { s with
        port := queue
        cmd := encode .getp
        rb := ready.b4.b0
        acc := assemble [data.b4.b0, data.b4.b1, data.b4.b2]
        res := convertPressure (assemble [data.b4.b0, data.b4.b1, data.b4.b2])
        err := 0
        busy := false
        done := true
        inFlight := none
        answers := as
        wakes := ws
        trace := s.trace ++ writeShape 0x26 s.params.cwArmBar ++ notReadyTrace polls ++
          readShape 0x00 .one ready.b4 ++ readShape 0x01 .three data.b4 }

/-- `GETA` whole: as `GETP`, with `CW_ARM_ALT` in the first write and the altitude rule (R136). That
`CW_ARM_ALT` is 0x3B is what R131 and R5 mark as derived from `CW_INIT`. -/
def Obligations.GetaMeasuresAltitude : Prop :=
  ∀ (s : State) (arm ready data : Acks) (polls : List Acks) (as : List Answer) (ws : List Bool)
    (queue : List CmdWord),
    s.Undisturbed → s.pc = .idle → s.port = encode .geta :: queue →
    s.answers = arm.answers ++ (polls.flatMap Acks.answers ++ (ready.answers ++ (data.answers ++ as))) →
    s.wakes = List.replicate polls.length true ++ ws →
    (∀ p ∈ polls, p.b4.b0 &&& s.params.maskPdr = 0) → ready.b4.b0 &&& s.params.maskPdr ≠ 0 →
    runSteps (1 + 4 + 6 * polls.length + 5 + 4 + 2) s = .next
      { s with
        port := queue
        cmd := encode .geta
        rb := ready.b4.b0
        acc := assemble [data.b4.b0, data.b4.b1, data.b4.b2]
        res := convertAltitude (assemble [data.b4.b0, data.b4.b1, data.b4.b2])
        err := 0
        busy := false
        done := true
        inFlight := none
        answers := as
        wakes := ws
        trace := s.trace ++ writeShape 0x26 0x3B ++ notReadyTrace polls ++
          readShape 0x00 .one ready.b4 ++ readShape 0x01 .three data.b4 }

/-- `GETT` whole: no ARM, the other mask, two bytes from 0x04, `8 + 5k` calls (R137). -/
def Obligations.GettMeasuresTemperature : Prop :=
  ∀ (s : State) (ready data : Acks) (polls : List Acks) (as : List Answer) (ws : List Bool)
    (queue : List CmdWord),
    s.Undisturbed → s.pc = .idle → s.port = encode .gett :: queue →
    s.answers = polls.flatMap Acks.answers ++ (ready.answers ++ (data.answers ++ as)) →
    s.wakes = List.replicate polls.length true ++ ws →
    (∀ p ∈ polls, p.b4.b0 &&& s.params.maskTdr = 0) → ready.b4.b0 &&& s.params.maskTdr ≠ 0 →
    runSteps (1 + 6 * polls.length + 5 + 4 + 2) s = .next
      { s with
        port := queue
        cmd := encode .gett
        rb := ready.b4.b0
        acc := assemble [data.b4.b0, data.b4.b1]
        res := convertTemperature (assemble [data.b4.b0, data.b4.b1])
        err := 0
        busy := false
        done := true
        inFlight := none
        answers := as
        wakes := ws
        trace := s.trace ++ notReadyTrace polls ++
          readShape 0x00 .one ready.b4 ++ readShape 0x04 .two data.b4 }

/-! ## The poll -/

/-- R138(b) and R139: a step leaves POLL only from POLL.4 with the mask's bit set in `RB`, to READ, or
by a bus error; there is no count, no timeout and no abort. -/
def Obligations.PollLeftOnlyWhenReady : Prop :=
  ∀ (s t : State) (q : Quantity) (m : MeasStep), s.resetReq = false →
    s.pc.measuring = some (q, m) → m.afterReady = false → step s = .next t →
    (∃ m', t.pc.measuring = some (q, m') ∧ m'.afterReady = false) ∨
    (m = .test ∧ readySet s.rb (readyMask q s.params) = true ∧
      t.pc.measuring = some (q, .read .one)) ∨
    (t.pc = .idle ∧ t.err = 2 ∧ ∃ c e, t.trace = s.trace ++ [⟨c, .err e⟩])

/-- R174, R139: a device that never shows the bit keeps the machine in the poll: after `6k` steps with
`k` status bytes whose bit is clear, for every `k`, `BUSY` is still 1 and `pc` at POLL.0, the trace has
grown by `k` times `R(0x00, 1) ; S(10)`, and offered words wait. -/
def Obligations.NotReadyDeviceKeepsPolling : Prop :=
  ∀ (s : State) (q : Quantity) (polls : List Acks) (as : List Answer) (ws : List Bool),
    s.Undisturbed → s.pc.measuring = some (q, .poll .one) → s.inFlight = none →
    s.answers = polls.flatMap Acks.answers ++ as →
    s.wakes = List.replicate polls.length true ++ ws →
    (∀ p ∈ polls, readySet p.b4.b0 (readyMask q s.params) = false) →
    runSteps (6 * polls.length) s = .next
      { s with
        rb := lastStatus polls s.rb
        answers := as
        wakes := ws
        trace := s.trace ++ notReadyTrace polls }

/-! ## Assembly and conversion -/

/-- R150: a cleared accumulator takes `(ACC << 8) | zext_32(b)` for each byte in order; three bytes
give `{0x00, b0, b1, b2}`, two give `{0x0000, b0, b1}`, most significant first, so that nothing is
shifted out of the top; and every 24-bit value comes back from its bytes. -/
def Obligations.AssemblyIsMsbFirst : Prop :=
  (∀ bs : List Byte, assemble bs = bs.foldl (fun (acc : Word) (b : Byte) => (acc <<< 8) ||| b.setWidth 32) 0) ∧
  (∀ b0 b1 b2 : Byte, assemble [b0, b1, b2] = 0x00#8 ++ b0 ++ b1 ++ b2 ∧
    (assemble [b0, b1, b2]).toNat = b0.toNat * 65536 + b1.toNat * 256 + b2.toNat) ∧
  (∀ b0 b1 : Byte, assemble [b0, b1] = 0x0000#16 ++ b0 ++ b1 ∧
    (assemble [b0, b1]).toNat = b0.toNat * 256 + b1.toNat) ∧
  (∀ r : BitVec 24,
    assemble [r.extractLsb' 16 8, r.extractLsb' 8 8, r.extractLsb' 0 8] = r.setWidth 32)

/-- R133: READ.0 clears `ACC` before its call; READ.3 assembles the bytes of the burst, three for
pressure and altitude, two for temperature, and goes on to CONVERT. -/
def Obligations.ReadClearsAndAssembles : Prop :=
  (∀ (s : State) (bs : Burst) (as : List Answer) (i : Instr) (q : Quantity),
    s.pc.running s.cmd = some i → s.pc.measuring = some (q, .read .one) → s.answers = .ok bs :: as →
    ∃ t, exec i s = .next t ∧ t.acc = 0 ∧ t.pc.measuring = some (q, .read .two)) ∧
  (∀ (s : State) (bs : Burst) (as : List Answer),
    s.pc = .getp (.meas (.read .four)) → s.answers = .ok bs :: as →
    exec .getp s = .next
      { s with
        acc := 0x00#8 ++ bs.b0 ++ bs.b1 ++ bs.b2
        answers := as
        trace := s.trace ++ [⟨.read 0x60 .three, .ok [bs.b0, bs.b1, bs.b2]⟩]
        inFlight := none
        pc := .getp (.meas .convert) }) ∧
  (∀ (s : State) (bs : Burst) (as : List Answer),
    s.pc = .geta (.meas (.read .four)) → s.answers = .ok bs :: as →
    exec .geta s = .next
      { s with
        acc := 0x00#8 ++ bs.b0 ++ bs.b1 ++ bs.b2
        answers := as
        trace := s.trace ++ [⟨.read 0x60 .three, .ok [bs.b0, bs.b1, bs.b2]⟩]
        inFlight := none
        pc := .geta (.meas .convert) }) ∧
  (∀ (s : State) (bs : Burst) (as : List Answer),
    s.pc = .gett (.read .four) → s.answers = .ok bs :: as →
    exec .gett s = .next
      { s with
        acc := 0x0000#16 ++ bs.b0 ++ bs.b1
        answers := as
        trace := s.trace ++ [⟨.read 0x60 .two, .ok [bs.b0, bs.b1]⟩]
        inFlight := none
        pc := .gett .convert })

/-- R151: a logical shift by 4 opens every conversion; the four bits shifted out have no effect, and
`V` has 20 bits for a 24-bit value and 12 for a 16-bit one. -/
def Obligations.PaddingBitsAreDropped : Prop :=
  (∀ acc : Word, (padShift acc).toNat = acc.toNat / 16) ∧
  (∀ acc acc' : Word, acc.toNat / 16 = acc'.toNat / 16 →
    convertPressure acc = convertPressure acc' ∧ convertAltitude acc = convertAltitude acc' ∧
      convertTemperature acc = convertTemperature acc') ∧
  (∀ acc : Word, acc.toNat < 2 ^ 24 → (shifted20 acc).toNat = acc.toNat / 16) ∧
  (∀ acc : Word, acc.toNat < 2 ^ 16 → (shifted12 acc).toNat = acc.toNat / 16)

/-- R153: the conditional OR with 0xFFF00000 is the sign extension from 20 bits, and its values run
from -524288 (0x80000) to 524287 (0x7FFFF). -/
def Obligations.AltitudeSignExtension : Prop :=
  (∀ v : BitVec 20,
    signExtendA v = (if v.getLsbD 19 then v.setWidth 32 ||| 0xFFF00000 else v.setWidth 32) ∧
    signExtendA v = v.signExtend 32 ∧ signExtendA v = signExtend (v.setWidth 32) 20 ∧
    -524288 ≤ (signExtendA v).toInt ∧ (signExtendA v).toInt ≤ 524287) ∧
  (signExtendA 0x80000).toInt = -524288 ∧ (signExtendA 0x7FFFF).toInt = 524287 ∧
  (signExtendA 0xFED48).toInt = -4792

/-- R152: for every raw `r` below 2^24, `RES = (r >> 4) / 4.0` exactly, from 0.0 to 262143.75, and the
result does not decrease with `r`. -/
def Obligations.PressureConversionExact : Prop :=
  (∀ r : Word, r.toNat < 2 ^ 24 →
    f32Value (convertPressure r) = ((r.toNat / 16 : ℕ) : ℚ) / 4 ∧
    0 ≤ f32Value (convertPressure r) ∧ f32Value (convertPressure r) ≤ 262143.75) ∧
  (∀ r r' : Word, r.toNat ≤ r'.toNat → r'.toNat < 2 ^ 24 →
    f32Value (convertPressure r) ≤ f32Value (convertPressure r')) ∧
  convertPressure 0 = 0 ∧ convertPressure 0x00000F = 0 ∧ convertPressure 0x000010 = 0x3E800000 ∧
  convertPressure 0xFFFFFF = 0x487FFFF0 ∧ convertPressure 0x62F340 = 0x47C5E680 ∧
  convertPressure 0x800000 = 0x48000000

/-- R154: with `V = r >> 4`, the result is `V / 16.0` if bit 19 of `V` is 0 and `(V - 2^20) / 16.0` if
it is 1, exactly, from -32768.0 to 32767.9375. -/
def Obligations.AltitudeConversionExact : Prop :=
  (∀ r : Word, r.toNat < 2 ^ 24 →
    f32Value (convertAltitude r) =
        (((r.toNat / 16 : ℕ) : ℚ) - if r.toNat / 16 < 2 ^ 19 then 0 else 2 ^ 20) / 16 ∧
    -32768 ≤ f32Value (convertAltitude r) ∧ f32Value (convertAltitude r) ≤ 32767.9375) ∧
  convertAltitude 0x800000 = 0xC7000000 ∧ convertAltitude 0x7FFFF0 = 0x46FFFFE0 ∧
  convertAltitude 0 = 0 ∧ convertAltitude 0xFFFFF0 = 0xBD800000 ∧
  convertAltitude 0x000010 = 0x3D800000 ∧ convertAltitude 0x012C80 = 0x43964000

/-- R155: the temperature is `(t >> 4) / 16.0` of the low 16 bits of `ACC`, unsigned whatever the top
bit: from 0.0 to 255.9375, never negative. -/
def Obligations.TemperatureConversionUnsigned : Prop :=
  (∀ acc : Word,
    f32Value (convertTemperature acc) = ((acc.toNat % 2 ^ 16 / 16 : ℕ) : ℚ) / 16 ∧
    0 ≤ f32Value (convertTemperature acc) ∧ f32Value (convertTemperature acc) ≤ 255.9375) ∧
  convertTemperature 0x8000 = 0x43000000 ∧ convertTemperature 0xFFFF = 0x437FF000 ∧
  convertTemperature 0x000F = 0 ∧ convertTemperature 0x1980 = 0x41CC0000 ∧
  convertTemperature 0xE700 = 0x43670000

/-- R157, whose bit-level form the spec marks "[derived: from rule R156 and the values the source's
formulas give]": `fix2f(sign, M, F)` is +0.0 for `M = 0`; otherwise, with `k` the index of the most
significant 1 bit, the exponent field is `127 + k - F` (123 to 144 for the two divisors), the fraction
field is the bits of `M` below its leading 1, left-aligned, and the sign bit is the sign. Its value is
`± M / 2^F` exactly. For altitude the sign and the magnitude are those of `S`. -/
def Obligations.FixedPointToFloatExact : Prop :=
  (∀ (sign : Bool) (m : BitVec 20) (f : Nat), f ≤ 4 →
    (m = 0 → fix2f sign m f = 0) ∧
    (m ≠ 0 → ∃ k, 2 ^ k ≤ m.toNat ∧ m.toNat < 2 ^ (k + 1) ∧
      expField (fix2f sign m f) = 127 + k - f ∧
      (f = 2 ∨ f = 4 → 123 ≤ 127 + k - f ∧ 127 + k - f ≤ 144) ∧
      fracField (fix2f sign m f) = m.toNat * 2 ^ (23 - k) % 2 ^ 23 ∧
      (fix2f sign m f).getLsbD 31 = sign) ∧
    f32Value (fix2f sign m f) = (if sign then -1 else 1) * ((m.toNat : ℚ) / 2 ^ f)) ∧
  (∀ v : BitVec 20,
    (if (signExtendA v).msb then -1 else 1) * ((magnitude (signExtendA v)).toNat : ℤ) =
      (signExtendA v).toInt) ∧
  magnitude (signExtendA 0x80000) = 2 ^ 19

/-- R158: the divisions by 4.0 and 16.0 subtract 2 or 4 from the exponent field and change no other
bit, and every result is +0.0 or a normal number (exponent field 123 to 144): never subnormal,
infinite or NaN. -/
def Obligations.DivisionsExactResultsNormal : Prop :=
  (∀ (sign : Bool) (m : BitVec 20) (f : Nat), f = 2 ∨ f = 4 → m ≠ 0 →
    expField (fix2f sign m f) + f = expField (fix2f sign m 0) ∧
    fracField (fix2f sign m f) = fracField (fix2f sign m 0) ∧
    (fix2f sign m f).getLsbD 31 = (fix2f sign m 0).getLsbD 31) ∧
  (∀ (q : Quantity) (acc : Word),
    convert q acc = 0 ∨ (123 ≤ expField (convert q acc) ∧ expField (convert q acc) ≤ 144))

/-! ## What nothing depends on -/

/-- R30: no step reads `RES`, `OK`, `ERR`, `TERR` or `DONE`: two states that differ only there make
the same step, with the same call, and still differ only there; and each of the five is then the same in
both, or in each what it was before, so that none depends on the old value of another. -/
def Obligations.ResultRegistersAreNotRead : Prop :=
  ∀ s s' : State, s.SameButResults s' →
    match step s, step s' with
    | .next t, .next t' =>
      t.SameButResults t' ∧ SameOrKept State.res s s' t t' ∧ SameOrKept State.ok s s' t t' ∧
        SameOrKept State.err s s' t t' ∧ SameOrKept State.terr s s' t t' ∧
        SameOrKept State.done s s' t t'
    | .fault x, .fault y => x = y
    | .refused x, .refused y => x = y
    | _, _ => False

/-- R30, R27 and 70_reset_and_hazards.md R192: nothing is carried from one command to the next. Two
idle states with the same parameters, inputs and trace, whatever their registers hold, go through the
same sequencer states with the same trace for every number of steps; and every register is then the
same in both or still what it was in each. -/
def Obligations.NothingCarriedBetweenCommands : Prop :=
  ∀ (s s' : State) (n : Nat) (t : State), s.pc = .idle →
    s' = { s with
      acc := s'.acc, rb := s'.rb, res := s'.res, cmd := s'.cmd, busy := s'.busy, done := s'.done,
      ok := s'.ok, err := s'.err, terr := s'.terr } →
    runSteps n s = .next t →
    ∃ t', runSteps n s' = .next t' ∧ t'.pc = t.pc ∧ t'.trace = t.trace ∧ t'.inFlight = t.inFlight ∧
      t'.port = t.port ∧
      SameOrKept State.acc s s' t t' ∧ SameOrKept State.rb s s' t t' ∧
      SameOrKept State.res s s' t t' ∧ SameOrKept State.cmd s s' t t' ∧
      SameOrKept State.busy s s' t t' ∧ SameOrKept State.done s s' t t' ∧
      SameOrKept State.ok s s' t t' ∧ SameOrKept State.err s s' t t' ∧
      SameOrKept State.terr s s' t t'
end

