-- ==== Sys2Proof/Laws/Encoding.lean ====
section
/-!
SUPPORT. The fields of a command word as numbers, and that they are exactly the word (spec
30_encoding.md R80).
-/
namespace Sys2Proof.Laws

theorem cmdWord_toNat (o a d : Byte) :
    (cmdWord o a d).toNat = o.toNat * 65536 + a.toNat * 256 + d.toNat := by
  have h1 := a.isLt
  have h2 := d.isLt
  simp only [cmdWord, BitVec.toNat_append]
  rw [← Nat.shiftLeft_add_eq_or_of_lt d.isLt, ← Nat.shiftLeft_add_eq_or_of_lt a.isLt]
  omega

theorem cmdOp_toNat (w : CmdWord) : (cmdOp w).toNat = w.toNat / 65536 := by
  have := w.isLt
  simp only [cmdOp, BitVec.extractLsb'_toNat]
  omega

theorem cmdA_toNat (w : CmdWord) : (cmdA w).toNat = w.toNat / 256 % 256 := by
  simp only [cmdA, BitVec.extractLsb'_toNat]
  omega

theorem cmdD_toNat (w : CmdWord) : (cmdD w).toNat = w.toNat % 256 := by
  simp only [cmdD, BitVec.extractLsb'_toNat]
  omega

@[simp] theorem cmdOp_cmdWord (o a d : Byte) : cmdOp (cmdWord o a d) = o := by
  apply BitVec.eq_of_toNat_eq
  rw [cmdOp_toNat, cmdWord_toNat]
  omega

@[simp] theorem cmdA_cmdWord (o a d : Byte) : cmdA (cmdWord o a d) = a := by
  apply BitVec.eq_of_toNat_eq
  rw [cmdA_toNat, cmdWord_toNat]
  omega

@[simp] theorem cmdD_cmdWord (o a d : Byte) : cmdD (cmdWord o a d) = d := by
  apply BitVec.eq_of_toNat_eq
  rw [cmdD_toNat, cmdWord_toNat]
  omega

theorem cmdWord_fields (w : CmdWord) : cmdWord (cmdOp w) (cmdA w) (cmdD w) = w := by
  apply BitVec.eq_of_toNat_eq
  rw [cmdWord_toNat, cmdOp_toNat, cmdA_toNat, cmdD_toNat]
  omega

/-- A word is determined by its three fields. -/
theorem eq_cmdWord_iff (w : CmdWord) (o a d : Byte) :
    w = cmdWord o a d ↔ cmdOp w = o ∧ cmdA w = a ∧ cmdD w = d := by
  constructor
  · rintro rfl
    simp
  · rintro ⟨rfl, rfl, rfl⟩
    exact (cmdWord_fields w).symm

/-- Masking acts field by field. -/
theorem cmdWord_and (o a d o' a' d' : Byte) :
    cmdWord o a d &&& cmdWord o' a' d' = cmdWord (o &&& o') (a &&& a') (d &&& d') := by
  unfold cmdWord
  rw [BitVec.and_append, BitVec.and_append]

theorem byte_and_ff (b : Byte) : b &&& 255#8 = b := BitVec.and_allOnes

/-- The three masks of R85's map: a row of format Z, A, AD selects a word by its fields. -/
theorem selects_z (name : String) (o : Byte) (w : CmdWord) :
    OpcodeRow.selects ⟨name, cmdWord o 0 0, 0xFFFFFF⟩ w = true ↔ cmdOp w = o ∧ cmdA w = 0 ∧ cmdD w = 0 := by
  have hm : (0xFFFFFF : CmdWord) = cmdWord 0xFF 0xFF 0xFF := by decide
  rw [OpcodeRow.selects, hm, ← cmdWord_fields w, cmdWord_and]
  simp [byte_and_ff, eq_cmdWord_iff]

theorem selects_a (name : String) (o : Byte) (w : CmdWord) :
    OpcodeRow.selects ⟨name, cmdWord o 0 0, 0xFF00FF⟩ w = true ↔ cmdOp w = o ∧ cmdD w = 0 := by
  have hm : (0xFF00FF : CmdWord) = cmdWord 0xFF 0 0xFF := by decide
  rw [OpcodeRow.selects, hm, ← cmdWord_fields w, cmdWord_and]
  simp [byte_and_ff, eq_cmdWord_iff]

theorem selects_ad (name : String) (o : Byte) (w : CmdWord) :
    OpcodeRow.selects ⟨name, cmdWord o 0 0, 0xFF0000⟩ w = true ↔ cmdOp w = o := by
  have hm : (0xFF0000 : CmdWord) = cmdWord 0xFF 0 0 := by decide
  rw [OpcodeRow.selects, hm, ← cmdWord_fields w, cmdWord_and]
  simp [byte_and_ff, eq_cmdWord_iff]

end Sys2Proof.Laws
end

