-- ==== Sys2Proof/Laws/State.lean ====
section
/-!
SUPPORT. The small lemmas of the state's updates: one for each field and each named update, so that no
proof unfolds a record update.
-/
namespace Sys2Proof.Laws

open Sys2Proof.Machine

variable (s : State)

/-! ## `record` -/

@[simp] theorem record_pc (c : Call) (r : Reply) : (record c r s).pc = s.pc := rfl
@[simp] theorem record_acc (c : Call) (r : Reply) : (record c r s).acc = s.acc := rfl
@[simp] theorem record_rb (c : Call) (r : Reply) : (record c r s).rb = s.rb := rfl
@[simp] theorem record_res (c : Call) (r : Reply) : (record c r s).res = s.res := rfl
@[simp] theorem record_cmd (c : Call) (r : Reply) : (record c r s).cmd = s.cmd := rfl
@[simp] theorem record_busy (c : Call) (r : Reply) : (record c r s).busy = s.busy := rfl
@[simp] theorem record_done (c : Call) (r : Reply) : (record c r s).done = s.done := rfl
@[simp] theorem record_ok (c : Call) (r : Reply) : (record c r s).ok = s.ok := rfl
@[simp] theorem record_err (c : Call) (r : Reply) : (record c r s).err = s.err := rfl
@[simp] theorem record_terr (c : Call) (r : Reply) : (record c r s).terr = s.terr := rfl
@[simp] theorem record_trace (c : Call) (r : Reply) : (record c r s).trace = s.trace ++ [⟨c, r⟩] := rfl
@[simp] theorem record_inFlight (c : Call) (r : Reply) : (record c r s).inFlight = none := rfl
@[simp] theorem record_params (c : Call) (r : Reply) : (record c r s).params = s.params := rfl
@[simp] theorem record_port (c : Call) (r : Reply) : (record c r s).port = s.port := rfl
@[simp] theorem record_resetReq (c : Call) (r : Reply) : (record c r s).resetReq = s.resetReq := rfl
@[simp] theorem record_answers (c : Call) (r : Reply) : (record c r s).answers = s.answers := rfl
@[simp] theorem record_wakes (c : Call) (r : Reply) : (record c r s).wakes = s.wakes := rfl
@[simp] theorem record_foreignUse (c : Call) (r : Reply) : (record c r s).foreignUse = s.foreignUse := rfl
@[simp] theorem record_disturbed (c : Call) (r : Reply) : (record c r s).disturbed = s.disturbed := rfl
@[simp] theorem record_draws (c : Call) (r : Reply) : (record c r s).draws = s.draws := rfl

/-! ## `await` -/

@[simp] theorem await_pc (c : Call) : (await c s).pc = s.pc := rfl
@[simp] theorem await_acc (c : Call) : (await c s).acc = s.acc := rfl
@[simp] theorem await_rb (c : Call) : (await c s).rb = s.rb := rfl
@[simp] theorem await_res (c : Call) : (await c s).res = s.res := rfl
@[simp] theorem await_cmd (c : Call) : (await c s).cmd = s.cmd := rfl
@[simp] theorem await_busy (c : Call) : (await c s).busy = s.busy := rfl
@[simp] theorem await_done (c : Call) : (await c s).done = s.done := rfl
@[simp] theorem await_ok (c : Call) : (await c s).ok = s.ok := rfl
@[simp] theorem await_err (c : Call) : (await c s).err = s.err := rfl
@[simp] theorem await_terr (c : Call) : (await c s).terr = s.terr := rfl
@[simp] theorem await_trace (c : Call) : (await c s).trace = s.trace := rfl
@[simp] theorem await_inFlight (c : Call) : (await c s).inFlight = some c := rfl
@[simp] theorem await_params (c : Call) : (await c s).params = s.params := rfl
@[simp] theorem await_port (c : Call) : (await c s).port = s.port := rfl
@[simp] theorem await_resetReq (c : Call) : (await c s).resetReq = s.resetReq := rfl
@[simp] theorem await_answers (c : Call) : (await c s).answers = s.answers := rfl
@[simp] theorem await_wakes (c : Call) : (await c s).wakes = s.wakes := rfl
@[simp] theorem await_foreignUse (c : Call) : (await c s).foreignUse = s.foreignUse := rfl
@[simp] theorem await_disturbed (c : Call) : (await c s).disturbed = s.disturbed := rfl
@[simp] theorem await_draws (c : Call) : (await c s).draws = s.draws := rfl

/-! ## `raise` -/

@[simp] theorem raise_pc (x : Exception) : (raise x s).pc = .idle := rfl
@[simp] theorem raise_acc (x : Exception) : (raise x s).acc = s.acc := rfl
@[simp] theorem raise_rb (x : Exception) : (raise x s).rb = s.rb := rfl
@[simp] theorem raise_res (x : Exception) : (raise x s).res = s.res := rfl
@[simp] theorem raise_cmd (x : Exception) : (raise x s).cmd = s.cmd := rfl
@[simp] theorem raise_busy (x : Exception) : (raise x s).busy = false := rfl
@[simp] theorem raise_done (x : Exception) : (raise x s).done = true := rfl
@[simp] theorem raise_ok (x : Exception) : (raise x s).ok = s.ok := rfl
@[simp] theorem raise_err (x : Exception) : (raise x s).err = x.code := rfl
@[simp] theorem raise_terr (x : Exception) : (raise x s).terr = x.terr s.terr := rfl
@[simp] theorem raise_trace (x : Exception) : (raise x s).trace = s.trace := rfl
@[simp] theorem raise_inFlight (x : Exception) : (raise x s).inFlight = s.inFlight := rfl
@[simp] theorem raise_params (x : Exception) : (raise x s).params = s.params := rfl
@[simp] theorem raise_port (x : Exception) : (raise x s).port = s.port := rfl
@[simp] theorem raise_resetReq (x : Exception) : (raise x s).resetReq = s.resetReq := rfl
@[simp] theorem raise_answers (x : Exception) : (raise x s).answers = s.answers := rfl
@[simp] theorem raise_wakes (x : Exception) : (raise x s).wakes = s.wakes := rfl
@[simp] theorem raise_foreignUse (x : Exception) : (raise x s).foreignUse = s.foreignUse := rfl
@[simp] theorem raise_disturbed (x : Exception) : (raise x s).disturbed = s.disturbed := rfl
@[simp] theorem raise_draws (x : Exception) : (raise x s).draws = s.draws := rfl

/-! ## `finish` -/

@[simp] theorem finish_pc : (finish s).pc = .idle := rfl
@[simp] theorem finish_acc : (finish s).acc = s.acc := rfl
@[simp] theorem finish_rb : (finish s).rb = s.rb := rfl
@[simp] theorem finish_res : (finish s).res = s.res := rfl
@[simp] theorem finish_cmd : (finish s).cmd = s.cmd := rfl
@[simp] theorem finish_busy : (finish s).busy = false := rfl
@[simp] theorem finish_done : (finish s).done = true := rfl
@[simp] theorem finish_ok : (finish s).ok = s.ok := rfl
@[simp] theorem finish_err : (finish s).err = s.err := rfl
@[simp] theorem finish_terr : (finish s).terr = s.terr := rfl
@[simp] theorem finish_trace : (finish s).trace = s.trace := rfl
@[simp] theorem finish_inFlight : (finish s).inFlight = s.inFlight := rfl
@[simp] theorem finish_params : (finish s).params = s.params := rfl
@[simp] theorem finish_port : (finish s).port = s.port := rfl
@[simp] theorem finish_resetReq : (finish s).resetReq = s.resetReq := rfl
@[simp] theorem finish_answers : (finish s).answers = s.answers := rfl
@[simp] theorem finish_wakes : (finish s).wakes = s.wakes := rfl
@[simp] theorem finish_foreignUse : (finish s).foreignUse = s.foreignUse := rfl
@[simp] theorem finish_disturbed : (finish s).disturbed = s.disturbed := rfl
@[simp] theorem finish_draws : (finish s).draws = s.draws := rfl

/-! ## `latch` -/

@[simp] theorem latch_pc (w : CmdWord) : (latch w s).pc = s.pc := rfl
@[simp] theorem latch_acc (w : CmdWord) : (latch w s).acc = s.acc := rfl
@[simp] theorem latch_rb (w : CmdWord) : (latch w s).rb = s.rb := rfl
@[simp] theorem latch_res (w : CmdWord) : (latch w s).res = s.res := rfl
@[simp] theorem latch_cmd (w : CmdWord) : (latch w s).cmd = w := rfl
@[simp] theorem latch_busy (w : CmdWord) : (latch w s).busy = true := rfl
@[simp] theorem latch_done (w : CmdWord) : (latch w s).done = false := rfl
@[simp] theorem latch_ok (w : CmdWord) : (latch w s).ok = okAccepted w s.ok := rfl
@[simp] theorem latch_err (w : CmdWord) : (latch w s).err = 0 := rfl
@[simp] theorem latch_terr (w : CmdWord) : (latch w s).terr = s.terr := rfl
@[simp] theorem latch_trace (w : CmdWord) : (latch w s).trace = s.trace := rfl
@[simp] theorem latch_inFlight (w : CmdWord) : (latch w s).inFlight = s.inFlight := rfl
@[simp] theorem latch_params (w : CmdWord) : (latch w s).params = s.params := rfl
@[simp] theorem latch_port (w : CmdWord) : (latch w s).port = s.port := rfl
@[simp] theorem latch_resetReq (w : CmdWord) : (latch w s).resetReq = s.resetReq := rfl
@[simp] theorem latch_answers (w : CmdWord) : (latch w s).answers = s.answers := rfl
@[simp] theorem latch_wakes (w : CmdWord) : (latch w s).wakes = s.wakes := rfl
@[simp] theorem latch_foreignUse (w : CmdWord) : (latch w s).foreignUse = s.foreignUse := rfl
@[simp] theorem latch_disturbed (w : CmdWord) : (latch w s).disturbed = s.disturbed := rfl
@[simp] theorem latch_draws (w : CmdWord) : (latch w s).draws = s.draws := rfl

/-! ## `accept` -/

@[simp] theorem accept_pc (w : CmdWord) (p : Pc) : (accept w p s).pc = p := rfl
@[simp] theorem accept_acc (w : CmdWord) (p : Pc) : (accept w p s).acc = s.acc := rfl
@[simp] theorem accept_rb (w : CmdWord) (p : Pc) : (accept w p s).rb = s.rb := rfl
@[simp] theorem accept_res (w : CmdWord) (p : Pc) : (accept w p s).res = s.res := rfl
@[simp] theorem accept_cmd (w : CmdWord) (p : Pc) : (accept w p s).cmd = w := rfl
@[simp] theorem accept_busy (w : CmdWord) (p : Pc) : (accept w p s).busy = true := rfl
@[simp] theorem accept_done (w : CmdWord) (p : Pc) : (accept w p s).done = false := rfl
@[simp] theorem accept_ok (w : CmdWord) (p : Pc) : (accept w p s).ok = okAccepted w s.ok := rfl
@[simp] theorem accept_err (w : CmdWord) (p : Pc) : (accept w p s).err = 0 := rfl
@[simp] theorem accept_terr (w : CmdWord) (p : Pc) : (accept w p s).terr = s.terr := rfl
@[simp] theorem accept_trace (w : CmdWord) (p : Pc) : (accept w p s).trace = s.trace := rfl
@[simp] theorem accept_inFlight (w : CmdWord) (p : Pc) : (accept w p s).inFlight = s.inFlight := rfl
@[simp] theorem accept_params (w : CmdWord) (p : Pc) : (accept w p s).params = s.params := rfl
@[simp] theorem accept_port (w : CmdWord) (p : Pc) : (accept w p s).port = s.port := rfl
@[simp] theorem accept_resetReq (w : CmdWord) (p : Pc) : (accept w p s).resetReq = s.resetReq := rfl
@[simp] theorem accept_answers (w : CmdWord) (p : Pc) : (accept w p s).answers = s.answers := rfl
@[simp] theorem accept_wakes (w : CmdWord) (p : Pc) : (accept w p s).wakes = s.wakes := rfl
@[simp] theorem accept_foreignUse (w : CmdWord) (p : Pc) : (accept w p s).foreignUse = s.foreignUse := rfl
@[simp] theorem accept_disturbed (w : CmdWord) (p : Pc) : (accept w p s).disturbed = s.foreignUse := rfl
@[simp] theorem accept_draws (w : CmdWord) (p : Pc) : (accept w p s).draws = s.draws := rfl

/-! ## `acceptReserved` -/

@[simp] theorem acceptReserved_pc (w : CmdWord) : (acceptReserved w s).pc = .idle := rfl
@[simp] theorem acceptReserved_acc (w : CmdWord) : (acceptReserved w s).acc = s.acc := rfl
@[simp] theorem acceptReserved_rb (w : CmdWord) : (acceptReserved w s).rb = s.rb := rfl
@[simp] theorem acceptReserved_res (w : CmdWord) : (acceptReserved w s).res = s.res := rfl
@[simp] theorem acceptReserved_cmd (w : CmdWord) : (acceptReserved w s).cmd = w := rfl
@[simp] theorem acceptReserved_busy (w : CmdWord) : (acceptReserved w s).busy = false := rfl
@[simp] theorem acceptReserved_done (w : CmdWord) : (acceptReserved w s).done = true := rfl
@[simp] theorem acceptReserved_ok (w : CmdWord) : (acceptReserved w s).ok = okAccepted w s.ok := rfl
@[simp] theorem acceptReserved_err (w : CmdWord) : (acceptReserved w s).err = 3 := rfl
@[simp] theorem acceptReserved_terr (w : CmdWord) : (acceptReserved w s).terr = s.terr := rfl
@[simp] theorem acceptReserved_trace (w : CmdWord) : (acceptReserved w s).trace = s.trace := rfl
@[simp] theorem acceptReserved_inFlight (w : CmdWord) : (acceptReserved w s).inFlight = s.inFlight := rfl
@[simp] theorem acceptReserved_params (w : CmdWord) : (acceptReserved w s).params = s.params := rfl
@[simp] theorem acceptReserved_port (w : CmdWord) : (acceptReserved w s).port = s.port := rfl
@[simp] theorem acceptReserved_resetReq (w : CmdWord) : (acceptReserved w s).resetReq = s.resetReq := rfl
@[simp] theorem acceptReserved_answers (w : CmdWord) : (acceptReserved w s).answers = s.answers := rfl
@[simp] theorem acceptReserved_wakes (w : CmdWord) : (acceptReserved w s).wakes = s.wakes := rfl
@[simp] theorem acceptReserved_foreignUse (w : CmdWord) : (acceptReserved w s).foreignUse = s.foreignUse := rfl
@[simp] theorem acceptReserved_disturbed (w : CmdWord) : (acceptReserved w s).disturbed = s.disturbed := rfl
@[simp] theorem acceptReserved_draws (w : CmdWord) : (acceptReserved w s).draws = s.draws := rfl

/-! ## `clearAcc`, `abandon`, `takeAnswer`, `takeWake`: what they leave -/

@[simp] theorem clearAcc_pc (l : Line) : (clearAcc l s).pc = s.pc := by cases l <;> rfl
@[simp] theorem clearAcc_rb (l : Line) : (clearAcc l s).rb = s.rb := by cases l <;> rfl
@[simp] theorem clearAcc_res (l : Line) : (clearAcc l s).res = s.res := by cases l <;> rfl
@[simp] theorem clearAcc_cmd (l : Line) : (clearAcc l s).cmd = s.cmd := by cases l <;> rfl
@[simp] theorem clearAcc_busy (l : Line) : (clearAcc l s).busy = s.busy := by cases l <;> rfl
@[simp] theorem clearAcc_done (l : Line) : (clearAcc l s).done = s.done := by cases l <;> rfl
@[simp] theorem clearAcc_ok (l : Line) : (clearAcc l s).ok = s.ok := by cases l <;> rfl
@[simp] theorem clearAcc_err (l : Line) : (clearAcc l s).err = s.err := by cases l <;> rfl
@[simp] theorem clearAcc_terr (l : Line) : (clearAcc l s).terr = s.terr := by cases l <;> rfl
@[simp] theorem clearAcc_trace (l : Line) : (clearAcc l s).trace = s.trace := by cases l <;> rfl
@[simp] theorem clearAcc_inFlight (l : Line) : (clearAcc l s).inFlight = s.inFlight := by cases l <;> rfl
@[simp] theorem clearAcc_params (l : Line) : (clearAcc l s).params = s.params := by cases l <;> rfl
@[simp] theorem clearAcc_port (l : Line) : (clearAcc l s).port = s.port := by cases l <;> rfl
@[simp] theorem clearAcc_resetReq (l : Line) : (clearAcc l s).resetReq = s.resetReq := by cases l <;> rfl
@[simp] theorem clearAcc_answers (l : Line) : (clearAcc l s).answers = s.answers := by cases l <;> rfl
@[simp] theorem clearAcc_wakes (l : Line) : (clearAcc l s).wakes = s.wakes := by cases l <;> rfl
@[simp] theorem clearAcc_foreignUse (l : Line) : (clearAcc l s).foreignUse = s.foreignUse := by cases l <;> rfl
@[simp] theorem clearAcc_disturbed (l : Line) : (clearAcc l s).disturbed = s.disturbed := by cases l <;> rfl
@[simp] theorem clearAcc_draws (l : Line) : (clearAcc l s).draws = s.draws := by cases l <;> rfl

@[simp] theorem abandon_pc : (abandon s).pc = s.pc := by unfold abandon; split <;> rfl
@[simp] theorem abandon_acc : (abandon s).acc = s.acc := by unfold abandon; split <;> rfl
@[simp] theorem abandon_rb : (abandon s).rb = s.rb := by unfold abandon; split <;> rfl
@[simp] theorem abandon_res : (abandon s).res = s.res := by unfold abandon; split <;> rfl
@[simp] theorem abandon_cmd : (abandon s).cmd = s.cmd := by unfold abandon; split <;> rfl
@[simp] theorem abandon_busy : (abandon s).busy = s.busy := by unfold abandon; split <;> rfl
@[simp] theorem abandon_done : (abandon s).done = s.done := by unfold abandon; split <;> rfl
@[simp] theorem abandon_ok : (abandon s).ok = s.ok := by unfold abandon; split <;> rfl
@[simp] theorem abandon_err : (abandon s).err = s.err := by unfold abandon; split <;> rfl
@[simp] theorem abandon_terr : (abandon s).terr = s.terr := by unfold abandon; split <;> rfl
@[simp] theorem abandon_params : (abandon s).params = s.params := by unfold abandon; split <;> rfl
@[simp] theorem abandon_port : (abandon s).port = s.port := by unfold abandon; split <;> rfl
@[simp] theorem abandon_resetReq : (abandon s).resetReq = s.resetReq := by unfold abandon; split <;> rfl
@[simp] theorem abandon_answers : (abandon s).answers = s.answers := by unfold abandon; split <;> rfl
@[simp] theorem abandon_wakes : (abandon s).wakes = s.wakes := by unfold abandon; split <;> rfl
@[simp] theorem abandon_foreignUse : (abandon s).foreignUse = s.foreignUse := by unfold abandon; split <;> rfl
@[simp] theorem abandon_disturbed : (abandon s).disturbed = s.disturbed := by unfold abandon; split <;> rfl
@[simp] theorem abandon_draws : (abandon s).draws = s.draws := by unfold abandon; split <;> rfl

@[simp] theorem takeAnswer_pc : ((takeAnswer s).2).pc = s.pc := by unfold takeAnswer; split <;> rfl
@[simp] theorem takeAnswer_acc : ((takeAnswer s).2).acc = s.acc := by unfold takeAnswer; split <;> rfl
@[simp] theorem takeAnswer_rb : ((takeAnswer s).2).rb = s.rb := by unfold takeAnswer; split <;> rfl
@[simp] theorem takeAnswer_res : ((takeAnswer s).2).res = s.res := by unfold takeAnswer; split <;> rfl
@[simp] theorem takeAnswer_cmd : ((takeAnswer s).2).cmd = s.cmd := by unfold takeAnswer; split <;> rfl
@[simp] theorem takeAnswer_busy : ((takeAnswer s).2).busy = s.busy := by unfold takeAnswer; split <;> rfl
@[simp] theorem takeAnswer_done : ((takeAnswer s).2).done = s.done := by unfold takeAnswer; split <;> rfl
@[simp] theorem takeAnswer_ok : ((takeAnswer s).2).ok = s.ok := by unfold takeAnswer; split <;> rfl
@[simp] theorem takeAnswer_err : ((takeAnswer s).2).err = s.err := by unfold takeAnswer; split <;> rfl
@[simp] theorem takeAnswer_terr : ((takeAnswer s).2).terr = s.terr := by unfold takeAnswer; split <;> rfl
@[simp] theorem takeAnswer_trace : ((takeAnswer s).2).trace = s.trace := by unfold takeAnswer; split <;> rfl
@[simp] theorem takeAnswer_inFlight : ((takeAnswer s).2).inFlight = s.inFlight := by unfold takeAnswer; split <;> rfl
@[simp] theorem takeAnswer_params : ((takeAnswer s).2).params = s.params := by unfold takeAnswer; split <;> rfl
@[simp] theorem takeAnswer_port : ((takeAnswer s).2).port = s.port := by unfold takeAnswer; split <;> rfl
@[simp] theorem takeAnswer_resetReq : ((takeAnswer s).2).resetReq = s.resetReq := by unfold takeAnswer; split <;> rfl
@[simp] theorem takeAnswer_wakes : ((takeAnswer s).2).wakes = s.wakes := by unfold takeAnswer; split <;> rfl
@[simp] theorem takeAnswer_foreignUse : ((takeAnswer s).2).foreignUse = s.foreignUse := by unfold takeAnswer; split <;> rfl
@[simp] theorem takeAnswer_disturbed : ((takeAnswer s).2).disturbed = s.disturbed := by unfold takeAnswer; split <;> rfl

@[simp] theorem takeWake_pc : ((takeWake s).2).pc = s.pc := by unfold takeWake; split <;> rfl
@[simp] theorem takeWake_acc : ((takeWake s).2).acc = s.acc := by unfold takeWake; split <;> rfl
@[simp] theorem takeWake_rb : ((takeWake s).2).rb = s.rb := by unfold takeWake; split <;> rfl
@[simp] theorem takeWake_res : ((takeWake s).2).res = s.res := by unfold takeWake; split <;> rfl
@[simp] theorem takeWake_cmd : ((takeWake s).2).cmd = s.cmd := by unfold takeWake; split <;> rfl
@[simp] theorem takeWake_busy : ((takeWake s).2).busy = s.busy := by unfold takeWake; split <;> rfl
@[simp] theorem takeWake_done : ((takeWake s).2).done = s.done := by unfold takeWake; split <;> rfl
@[simp] theorem takeWake_ok : ((takeWake s).2).ok = s.ok := by unfold takeWake; split <;> rfl
@[simp] theorem takeWake_err : ((takeWake s).2).err = s.err := by unfold takeWake; split <;> rfl
@[simp] theorem takeWake_terr : ((takeWake s).2).terr = s.terr := by unfold takeWake; split <;> rfl
@[simp] theorem takeWake_trace : ((takeWake s).2).trace = s.trace := by unfold takeWake; split <;> rfl
@[simp] theorem takeWake_inFlight : ((takeWake s).2).inFlight = s.inFlight := by unfold takeWake; split <;> rfl
@[simp] theorem takeWake_params : ((takeWake s).2).params = s.params := by unfold takeWake; split <;> rfl
@[simp] theorem takeWake_port : ((takeWake s).2).port = s.port := by unfold takeWake; split <;> rfl
@[simp] theorem takeWake_resetReq : ((takeWake s).2).resetReq = s.resetReq := by unfold takeWake; split <;> rfl
@[simp] theorem takeWake_answers : ((takeWake s).2).answers = s.answers := by unfold takeWake; split <;> rfl
@[simp] theorem takeWake_foreignUse : ((takeWake s).2).foreignUse = s.foreignUse := by unfold takeWake; split <;> rfl
@[simp] theorem takeWake_disturbed : ((takeWake s).2).disturbed = s.disturbed := by unfold takeWake; split <;> rfl

@[simp] theorem abandon_inFlight : (abandon s).inFlight = none := by
  unfold abandon; split <;> simp_all

@[simp] theorem abandon_calls : (abandon s).calls = s.calls := by
  unfold abandon; split <;> simp_all [State.calls]

/-! ## `applyReset` -/

@[simp] theorem applyReset_pc : (applyReset s).pc = .idle := rfl
@[simp] theorem applyReset_acc : (applyReset s).acc = Config.freeAcc s.draws := rfl
@[simp] theorem applyReset_rb : (applyReset s).rb = Config.freeRb s.draws := rfl
@[simp] theorem applyReset_res : (applyReset s).res = Config.freeRes s.draws := rfl
@[simp] theorem applyReset_cmd : (applyReset s).cmd = Config.freeCmd s.draws := rfl
@[simp] theorem applyReset_busy : (applyReset s).busy = false := rfl
@[simp] theorem applyReset_done : (applyReset s).done = false := rfl
@[simp] theorem applyReset_ok : (applyReset s).ok = false := rfl
@[simp] theorem applyReset_err : (applyReset s).err = 0 := rfl
@[simp] theorem applyReset_terr : (applyReset s).terr = TErr.ofCode (Config.freeTerrCode s.draws) := rfl
@[simp] theorem applyReset_params : (applyReset s).params = s.params := by simp [applyReset]
@[simp] theorem applyReset_port : (applyReset s).port = s.port := by simp [applyReset]
@[simp] theorem applyReset_resetReq : (applyReset s).resetReq = false := rfl
@[simp] theorem applyReset_answers : (applyReset s).answers = s.answers := by simp [applyReset]
@[simp] theorem applyReset_wakes : (applyReset s).wakes = s.wakes := by simp [applyReset]
@[simp] theorem applyReset_foreignUse : (applyReset s).foreignUse = s.foreignUse := by simp [applyReset]
@[simp] theorem applyReset_disturbed : (applyReset s).disturbed = false := rfl
@[simp] theorem applyReset_draws : (applyReset s).draws = s.draws + 1 := rfl

@[simp] theorem applyReset_inFlight : (applyReset s).inFlight = none := by simp [applyReset]

@[simp] theorem applyReset_calls : (applyReset s).calls = s.calls := by
  simpa [State.calls, applyReset] using abandon_calls s

end Sys2Proof.Laws
end

