-- ==== Sys2Proof/Laws/Step.lean ====
section
/-!
SUPPORT. What one step can do, said once: a step list's step makes at most the one call of
`Pc.call`, whose answer decides among waiting, a bus error and going on as the table below says
(spec 10_state.md R20; 40_byte_transactions.md R105). `step_cases` is the inversion of a step;
`call_ok`, `call_err` and `call_pending` run a call forwards.
-/
namespace Sys2Proof.Laws

open Sys2Proof.Machine

/-! ## The table of what an `ok` answer does -/

/-- The line after a line, `next` after the last. -/
def lineNext (here : Line → Pc) (next : Pc) : Line → Pc
  | .one => here .two
  | .two => here .three
  | .three => here .four
  | .four => next

/-- The sequencer state after the call of a shared measurement step returned `ok`. -/
def measNext (here : MeasStep → Pc) : MeasStep → Pc
  | .poll l => lineNext (fun k => here (.poll k)) (here .test) l
  | .read l => lineNext (fun k => here (.read k)) (here .convert) l
  | .sleep => here (.poll .one)
  | .test => here .test
  | .convert => here .convert
  | .done => here .done

/-- The sequencer state after the call of the step `p` returned `ok`; `p` itself if it makes none. -/
def nextPc : Pc → Pc
  | .idle => .idle
  | .init .begin => .init (.idRead .one)
  | .init (.idRead l) => lineNext (fun k => .init (.idRead k)) (.init .check) l
  | .init (.ctrlWrite l) => lineNext (fun k => .init (.ctrlWrite k)) (.init (.evcfgWrite .one)) l
  | .init (.evcfgWrite l) => lineNext (fun k => .init (.evcfgWrite k)) (.init .finish) l
  | .init .check => .init .check
  | .init .finish => .init .finish
  | .getp (.arm l) => lineNext (fun k => .getp (.arm k)) (.getp (.meas (.poll .one))) l
  | .getp (.meas m) => measNext (fun k => .getp (.meas k)) m
  | .geta (.arm l) => lineNext (fun k => .geta (.arm k)) (.geta (.meas (.poll .one))) l
  | .geta (.meas m) => measNext (fun k => .geta (.meas k)) m
  | .gett m => measNext (fun k => .gett k) m
  | .rdreg (.xfer l) => lineNext (fun k => .rdreg (.xfer k)) (.rdreg .finish) l
  | .rdreg .finish => .rdreg .finish
  | .wrreg (.xfer l) => lineNext (fun k => .wrreg (.xfer k)) (.wrreg .finish) l
  | .wrreg .finish => .wrreg .finish

/-- Line 4 of a `MemRead(addr, 1)`, which latches `RB` (R100). -/
def latchesRb : Pc → Bool
  | .init (.idRead .four) => true
  | .rdreg (.xfer .four) => true
  | p => match p.measuring with
    | some (_, .poll .four) => true
    | _ => false

/-- READ.3, which assembles `ACC` (R133). -/
def assembles (p : Pc) : Option Quantity :=
  match p.measuring with
  | some (q, .read .four) => some q
  | _ => none

/-- READ.0, which clears `ACC` before its call (R133). -/
def clears (p : Pc) : Bool :=
  match p.measuring with
  | some (_, .read .one) => true
  | _ => false

/-- What the step of `p` does to the state once its call has returned `ok` (R100 to R102, R133). -/
def afterOk (p : Pc) (bs : Burst) (t : State) : State :=
  { t with
    pc := nextPc p
    rb := if latchesRb p then bs.b0 else t.rb
    acc := match assembles p with
      | some q => assemble (bs.bytes (burstLen q))
      | none => t.acc }

/-- What the step of `p` does before its call. -/
def beforeCall (s : State) : State := { s with acc := if clears s.pc then 0 else s.acc }

/-- The sequencer state of a shared measurement step (R130). -/
def measPc (q : Quantity) (m : MeasStep) : Pc :=
  match q with
  | .pressure => .getp (.meas m)
  | .altitude => .geta (.meas m)
  | .temperature => .gett m

/-- The first step of a command's step list (R24). -/
def firstPc : Instr → Pc
  | .init => .init .begin
  | .getp => .getp (.arm .one)
  | .geta => .geta (.arm .one)
  | .gett => .gett (.poll .one)
  | .rdreg _ => .rdreg (.xfer .one)
  | .wrreg _ _ => .wrreg (.xfer .one)

/-- A call on the transport, not on the host runtime. -/
def onTransport : Call → Bool
  | .sleep _ => false
  | .begin => true
  | .start _ => true
  | .write _ => true
  | .endTx _ => true
  | .read _ _ => true

/-! ## The wrapper -/

theorem call_ok {s : State} {bs : Burst} {as : List Answer} (c : Call)
    (k : Burst → State → State) (h : s.answers = .ok bs :: as) :
    call c k s = k bs (record c (.ok (c.yields bs)) { s with answers := as }) := by
  simp [call, takeAnswer, h]

theorem call_err {s : State} {e : TErr} {as : List Answer} (c : Call)
    (k : Burst → State → State) (h : s.answers = .err e :: as) :
    call c k s = raise (.busError e) (record c (.err e) { s with answers := as }) := by
  simp [call, takeAnswer, h]

theorem call_pending {s : State} {as : List Answer} (c : Call)
    (k : Burst → State → State) (h : s.answers = .pending :: as) :
    call c k s = await c { s with answers := as } := by
  simp [call, takeAnswer, h]

theorem takeAnswer_eq (s : State) :
    ∃ a as d, takeAnswer s = (a, { s with answers := as, draws := d }) := by
  cases h : s.answers with
  | cons a as => exact ⟨a, as, s.draws, by simp [takeAnswer, h]⟩
  | nil => exact ⟨Config.freeAnswer s.draws, [], s.draws + 1, by simp only [takeAnswer, h]⟩

theorem takeWake_eq (s : State) :
    ∃ w ws d, takeWake s = (w, { s with wakes := ws, draws := d }) := by
  cases h : s.wakes with
  | cons w ws => exact ⟨w, ws, s.draws, by simp [takeWake, h]⟩
  | nil => exact ⟨Config.freeWake s.draws, [], s.draws + 1, by simp only [takeWake, h]⟩

/-- Everything the wrapper can do, whether the answer is scripted or free (R105). -/
theorem call_cases (c : Call) (k : Burst → State → State) (s : State) :
    ∃ as d, call c k s = await c { s with answers := as, draws := d } ∨
      (∃ e, call c k s =
        raise (.busError e) (record c (.err e) { s with answers := as, draws := d })) ∨
      ∃ bs, call c k s =
        k bs (record c (.ok (c.yields bs)) { s with answers := as, draws := d }) := by
  obtain ⟨a, as, d, h⟩ := takeAnswer_eq s
  refine ⟨as, d, ?_⟩
  rw [call, h]
  cases a with
  | pending => exact .inl rfl
  | err e => exact .inr (.inl ⟨e, rfl⟩)
  | ok bs => exact .inr (.inr ⟨bs, rfl⟩)

/-- Everything the sleep can do (R88). -/
theorem sleepCall_cases (p : Pc) (s : State) :
    ∃ ws d, sleepCall p s = await (.sleep pollInterval) { s with wakes := ws, draws := d } ∨
      sleepCall p s =
        { record (.sleep pollInterval) (.ok []) { s with wakes := ws, draws := d } with pc := p } := by
  obtain ⟨w, ws, d, h⟩ := takeWake_eq s
  refine ⟨ws, d, ?_⟩
  rw [sleepCall, h]
  cases w with
  | false => exact .inl rfl
  | true => exact .inr rfl

/-! ## One step of a running command -/

/-- A step that calls the transport is the wrapper around its call of the table, with the table's
continuation. -/
theorem exec_calls {s : State} {i : Instr} {c : Call} (hi : s.pc.running s.cmd = some i)
    (hc : s.nextCall = some c) (ht : onTransport c = true) :
    exec i s = .next (call c (afterOk s.pc) (beforeCall s)) := by
  obtain ⟨pc⟩ := s
  rcases pc with _ | (_ | l | _ | l | l | _) | (l | l | _ | _ | l | _ | _) |
      (l | l | _ | _ | l | _ | _) | (l | _ | _ | l | _ | _) | (l | _) | (l | _) <;>
    simp only [Pc.running, Option.some.injEq, reduceCtorEq] at hi <;> subst hi <;>
    simp only [State.nextCall, Pc.call, initCall, measCall, Option.some.injEq, reduceCtorEq] at hc <;>
    subst hc <;> first
      | rfl
      | (cases l <;> rfl)
      | (exact absurd ht (by simp [onTransport]))

/-- The step POLL.5, the only one that calls the host runtime. -/
theorem exec_sleeps {s : State} {i : Instr} {c : Call} (hi : s.pc.running s.cmd = some i)
    (hc : s.nextCall = some c) (ht : onTransport c = false) :
    c = .sleep pollInterval ∧ (∃ q, s.pc.measuring = some (q, .sleep)) ∧
      exec i s = .next (sleepCall (nextPc s.pc) s) := by
  obtain ⟨pc⟩ := s
  rcases pc with _ | (_ | l | _ | l | l | _) | (l | l | _ | _ | l | _ | _) |
      (l | l | _ | _ | l | _ | _) | (l | _ | _ | l | _ | _) | (l | _) | (l | _) <;>
    simp only [Pc.running, Option.some.injEq, reduceCtorEq] at hi <;> subst hi <;>
    simp only [State.nextCall, Pc.call, initCall, measCall, Option.some.injEq, reduceCtorEq] at hc <;>
    subst hc <;> first
      | exact ⟨rfl, ⟨_, rfl⟩, rfl⟩
      | (cases l <;> exact absurd ht (by simp [onTransport, memReadCall, memWriteCall]))
      | (exact absurd ht (by simp [onTransport]))

theorem measuring_eq_some {p : Pc} {q : Quantity} {m : MeasStep} :
    p.measuring = some (q, m) ↔ p = measPc q m := by
  rcases p with _ | _ | (_ | _) | (_ | _) | _ | _ | _ <;> cases q <;>
    simp [Pc.measuring, measPc]

@[simp] theorem measPc_measuring (q : Quantity) (m : MeasStep) :
    (measPc q m).measuring = some (q, m) := by
  cases q <;> rfl

@[simp] theorem measPc_ne_idle (q : Quantity) (m : MeasStep) : measPc q m ≠ .idle := by
  cases q <;> simp [measPc]

@[simp] theorem measPc_ne_init (q : Quantity) (m : MeasStep) (st : InitStep) :
    measPc q m ≠ .init st := by
  cases q <;> simp [measPc]

@[simp] theorem measPc_phase (q : Quantity) (m : MeasStep) : (measPc q m).phase = m.phase := by
  cases q <;> rfl

@[simp] theorem measPc_call (q : Quantity) (m : MeasStep) (p : Params) (w : CmdWord) :
    (measPc q m).call p w = measCall q m := by
  cases q <;> rfl

theorem measPc_running (q : Quantity) (m m' : MeasStep) (w : CmdWord) :
    (measPc q m).running w = (measPc q m').running w := by
  cases q <;> rfl

theorem measPc_opens (q : Quantity) {m : MeasStep} (h : m ≠ .poll .one) :
    (measPc q m).opens = false := by
  rcases q with _ | _ | _ <;> rcases m with (_ | _ | _ | _) | _ | _ | _ | _ | _ <;>
    first | rfl | exact absurd rfl h

/-- The steps that make no call: INIT.5, INIT.14, POLL.4, CONVERT, DONE, RDREG.4, WRREG.4. -/
inductive Internal (s : State) : State → Prop where
  | check (h : s.pc = .init .check) : Internal s (initCheck s)
  | initFinish (h : s.pc = .init .finish) : Internal s { finish s with ok := true }
  | test (q : Quantity) (h : s.pc = measPc q .test) : Internal s (pollTest q (measPc q) s)
  | convert (q : Quantity) (h : s.pc = measPc q .convert) :
      Internal s { s with res := convert q s.acc, pc := measPc q .done }
  | measFinish (q : Quantity) (h : s.pc = measPc q .done) : Internal s (finish s)
  | rdregFinish (h : s.pc = .rdreg .finish) : Internal s (finish s)
  | wrregFinish (h : s.pc = .wrreg .finish) : Internal s (finish s)

theorem exec_internal {s : State} {i : Instr} (hi : s.pc.running s.cmd = some i)
    (hc : s.nextCall = none) : ∃ t, exec i s = .next t ∧ Internal s t := by
  obtain ⟨pc⟩ := s
  rcases pc with _ | (_ | l | _ | l | l | _) | (l | l | _ | _ | l | _ | _) |
      (l | l | _ | _ | l | _ | _) | (l | _ | _ | l | _ | _) | (l | _) | (l | _) <;>
    simp only [Pc.running, Option.some.injEq, reduceCtorEq] at hi <;> subst hi <;>
    simp only [State.nextCall, Pc.call, initCall, measCall, reduceCtorEq] at hc <;>
    refine ⟨_, rfl, ?_⟩ <;> first
      | exact .check rfl
      | exact .initFinish rfl
      | exact .test .pressure rfl
      | exact .test .altitude rfl
      | exact .test .temperature rfl
      | exact .convert .pressure rfl
      | exact .convert .altitude rfl
      | exact .convert .temperature rfl
      | exact .measFinish .pressure rfl
      | exact .measFinish .altitude rfl
      | exact .measFinish .temperature rfl
      | exact .rdregFinish rfl
      | exact .wrregFinish rfl

/-- At `IDLE` a meaning accepts its command (R24). -/
theorem exec_idle {s : State} (i : Instr) (h : s.pc = .idle) :
    exec i s = .next (accept (encode i) (firstPc i) s) := by
  cases i <;> simp [exec, execInit, execGetp, execGeta, execGett, execRdreg, execWrreg, firstPc, h]

/-! ## The inversion of a step -/

/-- What a step that answers a next state has done. -/
inductive StepCase (s : State) : State → Prop where
  | reset (h : s.resetReq = true) : StepCase s (applyReset s)
  | idles (hr : s.resetReq = false) (hp : s.pc = .idle) (h : s.port = []) : StepCase s s
  | accepts (hr : s.resetReq = false) (hp : s.pc = .idle) (w : CmdWord) (ws : List CmdWord)
      (h : s.port = w :: ws) (i : Instr) (hd : decode w = .ok i) :
      StepCase s (accept (encode i) (firstPc i) { s with port := ws })
  | refuses (hr : s.resetReq = false) (hp : s.pc = .idle) (w : CmdWord) (ws : List CmdWord)
      (h : s.port = w :: ws) (x : Reserved) (hd : decode w = .error x) :
      StepCase s (acceptReserved w { s with port := ws })
  | waits (hu : s.Undisturbed) (c : Call)
      (hc : s.nextCall = some c) (ht : onTransport c = true) (as : List Answer) (d : Nat) :
      StepCase s (await c { beforeCall s with answers := as, draws := d })
  | fails (hu : s.Undisturbed) (c : Call)
      (hc : s.nextCall = some c) (ht : onTransport c = true) (as : List Answer) (d : Nat) (e : TErr) :
      StepCase s (raise (.busError e)
        (record c (.err e) { beforeCall s with answers := as, draws := d }))
  | returns (hu : s.Undisturbed) (c : Call)
      (hc : s.nextCall = some c) (ht : onTransport c = true) (as : List Answer) (d : Nat) (bs : Burst) :
      StepCase s (afterOk s.pc bs
        (record c (.ok (c.yields bs)) { beforeCall s with answers := as, draws := d }))
  | sleeps (hu : s.Undisturbed) (q : Quantity)
      (hq : s.pc.measuring = some (q, .sleep)) (hc : s.nextCall = some (.sleep pollInterval))
      (ws : List Bool) (d : Nat) :
      StepCase s (await (.sleep pollInterval) { s with wakes := ws, draws := d })
  | wakes (hu : s.Undisturbed) (q : Quantity)
      (hq : s.pc.measuring = some (q, .sleep)) (hc : s.nextCall = some (.sleep pollInterval))
      (ws : List Bool) (d : Nat) :
      StepCase s { record (.sleep pollInterval) (.ok []) { s with wakes := ws, draws := d } with
        pc := nextPc s.pc }
  | internal (hu : s.Undisturbed) (hp : s.pc ≠ .idle) (t : State)
      (h : Internal s t) : StepCase s t

theorem running_eq_none {p : Pc} {w : CmdWord} : p.running w = none ↔ p = .idle := by
  cases p <;> simp [Pc.running]

/-- The step of a running command, undisturbed (R20). -/
theorem step_running {s : State} {i : Instr} (h : s.Undisturbed)
    (hi : s.pc.running s.cmd = some i) : step s = exec i s := by
  simp [step, sequencerStep, runStep, h.1, h.2.1, h.2.2, hi]

/-- The step that accepts a legal word (R24). -/
theorem step_accepts {s : State} {w : CmdWord} {ws : List CmdWord} {i : Instr}
    (hr : s.resetReq = false) (hp : s.pc = .idle) (h : s.port = w :: ws) (hd : decode w = .ok i) :
    step s = .next (accept (encode i) (firstPc i) { s with port := ws }) := by
  have he : exec i { s with port := ws } = _ := exec_idle i hp
  rw [← he]
  simp [step, sequencerStep, hr, hp, Pc.running, idleStep, h, acceptWord, hd]

/-- Everything a step that answers a next state can have done. -/
theorem step_cases {s t : State} (h : step s = .next t) : StepCase s t := by
  rw [step, sequencerStep] at h
  split at h
  case isTrue hr => cases h; exact .reset hr
  case isFalse hr =>
    have hr : s.resetReq = false := by simpa using hr
    split at h
    case h_2 hn =>
      have hp := running_eq_none.1 hn
      rw [idleStep] at h
      split at h
      case h_1 hport => cases h; exact .idles hr hp hport
      case h_2 w ws hport =>
        rw [acceptWord] at h
        split at h
        case h_1 i hd =>
          rw [exec_idle i (s := { s with port := ws }) hp] at h
          cases h
          exact .accepts hr hp w ws hport i hd
        case h_2 x hd => cases h; exact .refuses hr hp w ws hport x hd
    case h_1 i hi =>
      rw [runStep] at h
      split at h
      case isTrue => cases h
      case isFalse hf =>
        have hu : s.Undisturbed := ⟨hr, by simpa using hf⟩
        cases hc : s.nextCall with
        | none =>
          obtain ⟨u, he, hin⟩ := exec_internal hi hc
          rw [he] at h
          cases h
          exact .internal hu (fun hp => by simp [hp, Pc.running] at hi) _ hin
        | some c =>
          cases ht : onTransport c with
          | true =>
            rw [exec_calls hi hc ht] at h
            obtain ⟨as, d, hw | ⟨e, he⟩ | ⟨bs, hb⟩⟩ := call_cases c (afterOk s.pc) (beforeCall s)
            · rw [hw] at h; cases h; exact .waits hu c hc ht as d
            · rw [he] at h; cases h; exact .fails hu c hc ht as d e
            · rw [hb] at h; cases h; exact .returns hu c hc ht as d bs
          | false =>
            obtain ⟨rfl, ⟨q, hq⟩, he⟩ := exec_sleeps hi hc ht
            rw [he] at h
            obtain ⟨ws, d, hw | hw⟩ := sleepCall_cases (nextPc s.pc) s
            · rw [hw] at h; cases h; exact .sleeps hu q hq hc ws d
            · rw [hw] at h; cases h; exact .wakes hu q hq hc ws d

end Sys2Proof.Laws
end

