-- ==== Sys2Proof/Laws/Calls.lean ====
section
/-!
SUPPORT. What the step of a call leads to when the call returns `ok`, read off the tables of
Laws/Step.lean: the next sequencer state, its command, its place in the transaction shapes (spec
30_encoding.md R89), and which register the step writes; and how a trace grows by one event.
-/
namespace Sys2Proof.Laws

open Sys2Proof.Machine

/-- `OK` after the acceptance of a command: cleared by `INIT` only (R24, R27). -/
theorem okAccepted_encode (i : Instr) (b : Bool) :
    okAccepted (encode i) b = if i = .init then false else b := by
  cases i <;> simp [okAccepted, encode]

/-- What the tables say of a step `p` whose call is `c`, once the call has returned `ok`. -/
structure CallFacts (p : Pc) (w : CmdWord) (c : Call) : Prop where
  running_on : nextPc p ≠ .idle
  moves : nextPc p ≠ p
  same_command : (nextPc p).running w = p.running w
  /-- The call is in place in the shapes, and the next step's phase is what it leaves. -/
  phase : ∀ r, r = p.phase ∨ p.opens = true → r.afterCall c = some (nextPc p).phase
  after_ready : ∀ q m', (nextPc p).measuring = some (q, m') → m'.afterReady = true →
    latchesRb p = false ∧ ∃ m, p.measuring = some (q, m) ∧ m.afterReady = true
  after_check : ∀ st', nextPc p = .init st' → st'.afterCheck = true →
    latchesRb p = false ∧ ∃ st, p = .init st ∧ st.afterCheck = true
  init : ∀ st', nextPc p = .init st' → ∃ st, p = .init st
  convert : ∀ q, (nextPc p).measuring = some (q, .convert) → assembles p = some q

theorem call_facts {p : Pc} {params : Params} {w : CmdWord} {c : Call}
    (hc : p.call params w = some c) : CallFacts p w c := by
  rcases p with _ | (_ | l | _ | l | l | _) | (l | l | _ | _ | l | _ | _) |
      (l | l | _ | _ | l | _ | _) | (l | _ | _ | l | _ | _) | (l | _) | (l | _) <;>
    simp only [Pc.call, initCall, measCall, Option.some.injEq, reduceCtorEq] at hc <;>
    subst hc <;> first
    | (cases l <;> constructor <;>
        simp [nextPc, lineNext, measNext, Pc.running, Pc.phase, Pc.opens, MeasStep.phase,
          memReadPhase, memWritePhase, memReadCall, memWriteCall, TxPhase.afterCall, Pc.measuring,
          latchesRb, assembles, MeasStep.afterReady, InitStep.afterCheck])
    | (constructor <;>
        simp [nextPc, measNext, Pc.running, Pc.phase, Pc.opens, MeasStep.phase, memReadPhase,
          TxPhase.afterCall, Pc.measuring, latchesRb, assembles, MeasStep.afterReady,
          InitStep.afterCheck])

theorem call_ne_idle {s : State} {c : Call} (h : s.nextCall = some c) : s.pc ≠ .idle := by
  intro hp
  simp [State.nextCall, hp, Pc.call] at h

theorem running_of_call {s : State} {c : Call} (h : s.nextCall = some c) :
    ∃ i, s.pc.running s.cmd = some i := by
  cases hr : s.pc.running s.cmd with
  | none => exact absurd (running_eq_none.1 hr) (call_ne_idle h)
  | some i => exact ⟨i, rfl⟩

theorem onTransport_of_ne_sleep {c : Call} (h : ∀ ms, c ≠ .sleep ms) : onTransport c = true := by
  cases c <;> first | rfl | exact absurd rfl (h _)

/-- The step of a call on the transport is the wrapper around it (R105). -/
theorem step_call {s : State} {c : Call} (hu : s.Undisturbed) (hc : s.nextCall = some c)
    (hn : ∀ ms, c ≠ .sleep ms) : step s = .next (call c (afterOk s.pc) (beforeCall s)) := by
  obtain ⟨i, hi⟩ := running_of_call hc
  rw [step_running hu hi, exec_calls hi hc (onTransport_of_ne_sleep hn)]

theorem clears_iff (p : Pc) : clears p = true ↔ p.measuring.map Prod.snd = some (.read .one) := by
  unfold clears
  split
  · rename_i h
    simp [h]
  · rename_i h
    simp only [Bool.false_eq_true, Option.map_eq_some_iff, Prod.exists, exists_eq_right, false_iff,
      not_exists]
    exact h

theorem clears_spec {p : Pc} (h : clears p = true) : ∃ q, p.measuring = some (q, .read .one) := by
  unfold clears at h
  split at h
  · exact ⟨_, by assumption⟩
  · cases h

theorem assembles_spec {p : Pc} {q : Quantity} (h : assembles p = some q) :
    p.measuring = some (q, .read .four) := by
  unfold assembles at h
  split at h
  · cases h
    assumption
  · cases h

/-- The step list of a shared measurement step, run by its command (R135, R136, R137). -/
theorem step_meas {q : Quantity} {m : MeasStep} {s : State} (hu : s.Undisturbed)
    (hp : s.pc = measPc q m) : step s = .next (measureStep q (measPc q) m s) := by
  cases q <;>
    (rw [step_running hu (by rw [hp]; rfl)]
     simp only [exec, execGetp, execGeta, execGett, hp, measPc]
     rfl)

/-- A trace one event longer (R89). -/
theorem tracePhase_append {es : List Event} {p : TxPhase} (e : Event) (h : tracePhase es = some p) :
    tracePhase (es ++ [e]) = p.after e := by
  simp only [tracePhase, List.foldl_append, List.foldl_cons, List.foldl_nil] at h ⊢
  rw [h]
  rfl

end Sys2Proof.Laws
end

