-- ==== Sys2Proof/Laws/Float.lean ====
section
/-!
SUPPORT. The leading 1 of a magnitude and the pattern `fix2f` builds from it, as a number (spec
43_conversion.md R157).
-/
namespace Sys2Proof.Laws

open Sys2Proof.Machine

theorem topBitFrom_spec (m : BitVec 20) (n : Nat) (hlt : m.toNat < 2 ^ (n + 1)) (h0 : m ≠ 0) :
    topBitFrom m n ≤ n ∧ 2 ^ topBitFrom m n ≤ m.toNat ∧ m.toNat < 2 ^ (topBitFrom m n + 1) := by
  induction n with
  | zero =>
    have : m.toNat ≠ 0 := fun h => h0 (BitVec.eq_of_toNat_eq (by simpa using h))
    simp only [topBitFrom, zero_add, pow_zero, pow_one] at *
    omega
  | succ n ih =>
    simp only [topBitFrom]
    split
    case isTrue hb => exact ⟨le_refl _, Nat.ge_two_pow_of_testBit hb, hlt⟩
    case isFalse hb =>
      have hb : m.toNat.testBit (n + 1) = false := by simpa [BitVec.getLsbD] using hb
      have hlt' : m.toNat < 2 ^ (n + 1) := by
        by_contra hc
        rw [Nat.testBit_eq_decide_div_mod_eq] at hb
        have : m.toNat / 2 ^ (n + 1) = 1 :=
          Nat.div_eq_of_lt_le (by omega) (by rw [pow_succ] at hlt; omega)
        simp [this] at hb
      have := ih hlt'
      omega

/-- `k` is the index of the most significant 1 bit (R157). -/
theorem topBit_spec (m : BitVec 20) (h : m ≠ 0) :
    topBit m ≤ 19 ∧ 2 ^ topBit m ≤ m.toNat ∧ m.toNat < 2 ^ (topBit m + 1) :=
  topBitFrom_spec m 19 m.isLt h

/-- The magnitude left-aligned has its leading 1 at bit 23. -/
theorem aligned_bounds (m : BitVec 20) (h : m ≠ 0) :
    2 ^ 23 ≤ m.toNat * 2 ^ (23 - topBit m) ∧ m.toNat * 2 ^ (23 - topBit m) < 2 ^ 24 := by
  obtain ⟨h1, h2, h3⟩ := topBit_spec m h
  have e : 2 ^ 23 = 2 ^ topBit m * 2 ^ (23 - topBit m) := by
    rw [← pow_add]
    congr 1
    omega
  have e' : 2 ^ 24 = 2 ^ (topBit m + 1) * 2 ^ (23 - topBit m) := by
    rw [← pow_add]
    congr 1
    omega
  rw [e, e']
  exact ⟨Nat.mul_le_mul_right _ h2, Nat.mul_lt_mul_of_pos_right h3 (by positivity)⟩

/-- The pattern as sign, exponent field and fraction field (R157). -/
theorem fix2f_toNat (sign : Bool) (m : BitVec 20) (f : Nat) (h : m ≠ 0) (hf : f ≤ 4) :
    (fix2f sign m f).toNat =
      sign.toNat * 2 ^ 31 + (127 + topBit m - f) * 2 ^ 23 +
        (m.toNat * 2 ^ (23 - topBit m) - 2 ^ 23) := by
  have hk := (topBit_spec m h).1
  have hm := m.isLt
  obtain ⟨hl, hu⟩ := aligned_bounds m h
  have he : (BitVec.ofNat 8 (127 + topBit m - f)).toNat = 127 + topBit m - f := by
    rw [BitVec.toNat_ofNat]
    omega
  have hw : (m.setWidth 23 <<< (23 - topBit m)).toNat =
      m.toNat * 2 ^ (23 - topBit m) - 2 ^ 23 := by
    rw [BitVec.toNat_shiftLeft, BitVec.toNat_setWidth, Nat.shiftLeft_eq,
      Nat.mod_eq_of_lt (a := m.toNat) (by omega)]
    omega
  have hc : fix2f sign m f = BitVec.ofBool sign ++ BitVec.ofNat 8 (127 + topBit m - f) ++
      m.setWidth 23 <<< (23 - topBit m) := by
    rw [fix2f, if_neg h]
  rw [hc]
  simp only [BitVec.toNat_append]
  rw [← Nat.shiftLeft_add_eq_or_of_lt (m.setWidth 23 <<< (23 - topBit m)).isLt,
    ← Nat.shiftLeft_add_eq_or_of_lt (BitVec.ofNat 8 (127 + topBit m - f)).isLt, he, hw]
  simp only [Nat.shiftLeft_eq, BitVec.toNat_ofBool]
  ring

end Sys2Proof.Laws
end

