-- ==== Sys2Proof/Laws/Operands.lean ====
section
/-!
SUPPORT. Operand assembly and the padding shift as numbers (spec 43_conversion.md R150, R151).
-/
namespace Sys2Proof.Laws

open Sys2Proof.Machine

/-- One byte shifted in below 24 bits: nothing is lost at the top (R150). -/
theorem shiftIn_toNat (acc : Word) (b : Byte) (h : acc.toNat < 2 ^ 24) :
    (shiftIn acc b).toNat = acc.toNat * 256 + b.toNat := by
  have hb := b.isLt
  have e : (acc <<< 8).toNat = acc.toNat * 256 := by
    rw [BitVec.toNat_shiftLeft, Nat.shiftLeft_eq, Nat.mod_eq_of_lt (by omega)]
  have e2 : (b.setWidth 32).toNat = b.toNat := by
    rw [BitVec.toNat_setWidth, Nat.mod_eq_of_lt (by omega)]
  rw [shiftIn, BitVec.toNat_or, e, e2]
  have : acc.toNat * 256 = acc.toNat <<< 8 := by rw [Nat.shiftLeft_eq]
  rw [this, ← Nat.shiftLeft_add_eq_or_of_lt hb]

/-- Bytes shifted in keep the accumulator within its bytes (R150). -/
theorem foldl_shiftIn_lt (bs : List Byte) (acc : Word) (n : Nat) (hn : n + bs.length ≤ 4)
    (h : acc.toNat < 256 ^ n) : (bs.foldl shiftIn acc).toNat < 256 ^ (n + bs.length) := by
  induction bs generalizing acc n with
  | nil => simpa using h
  | cons b bs ih =>
    have hl : n + 1 + bs.length ≤ 4 := by simp only [List.length_cons] at hn; omega
    have h24 : acc.toNat < 2 ^ 24 :=
      lt_of_lt_of_le h
        (le_trans (Nat.pow_le_pow_right (by norm_num) (show n ≤ 3 by omega)) (by norm_num))
    have hb := b.isLt
    have := ih (shiftIn acc b) (n + 1) hl (by rw [shiftIn_toNat acc b h24, pow_succ]; omega)
    simpa only [List.foldl_cons, List.length_cons, Nat.add_assoc, Nat.add_comm] using this

/-- A burst of `k` bytes assembles to less than `256 ^ k`. -/
theorem assemble_lt (bs : List Byte) (h : bs.length ≤ 4) : (assemble bs).toNat < 256 ^ bs.length := by
  have := foldl_shiftIn_lt bs 0 0 (by omega) (by simp)
  rwa [Nat.zero_add] at this

theorem shifted20_toNat (acc : Word) : (shifted20 acc).toNat = acc.toNat / 16 % 2 ^ 20 := by
  simp [shifted20, padShift, padBits, Nat.shiftRight_eq_div_pow]

theorem and_ffff_toNat (acc : Word) : (acc &&& 0xFFFF).toNat = acc.toNat % 2 ^ 16 := by
  rw [BitVec.toNat_and]
  exact Nat.and_two_pow_sub_one_eq_mod _ 16

theorem shifted12_toNat (acc : Word) : (shifted12 acc).toNat = acc.toNat % 2 ^ 16 / 16 := by
  rw [shifted12, BitVec.toNat_setWidth]
  simp only [padShift, padBits, BitVec.toNat_ushiftRight, Nat.shiftRight_eq_div_pow, and_ffff_toNat]
  omega

end Sys2Proof.Laws
end

