-- ==== Sys2Proof/Laws/PerInstr.lean ====
section
/-!
SUPPORT. Laws with one lemma for each constructor of `Instr`.

`EncodedWordLegal`: the word of an instruction is legal by the formats of spec 30_encoding.md R81 to
R83, and the row of R85's map that carries the instruction's name selects it.
-/
namespace Sys2Proof.Laws.EncodedWordLegal

def Statement (i : Instr) : Prop :=
  i.wellFormed = true ∧
    ∃ r ∈ opcodeMap, r.mnemonic = i.mnemonic ∧ r.selects (encode i) = true

theorem init : Statement .init := by unfold Statement; decide

theorem getp : Statement .getp := by unfold Statement; decide

theorem geta : Statement .geta := by unfold Statement; decide

theorem gett : Statement .gett := by unfold Statement; decide

theorem rdreg (a : Byte) : Statement (.rdreg a) := by
  refine ⟨?_, ⟨"RDREG", 0x100000, 0xFF00FF⟩, by decide, rfl, ?_⟩
  · simp [Instr.wellFormed, encode, wordWellFormed, opFormat]
  · exact (selects_a "RDREG" 0x10 _).2 (by simp [encode])

theorem wrreg (a d : Byte) : Statement (.wrreg a d) := by
  refine ⟨?_, ⟨"WRREG", 0x110000, 0xFF0000⟩, by decide, rfl, ?_⟩
  · simp [Instr.wellFormed, encode, wordWellFormed, opFormat]
  · exact (selects_ad "WRREG" 0x11 _).2 (by simp [encode])

end Sys2Proof.Laws.EncodedWordLegal
end

