-- ==== Sys2Proof/Tests/Slice0.lean ====
section
/-!
SUPPORT. Tests of the model on small states, one step each, with expected results from the spec's
words, tables and vectors (95_test_vectors.md), and for every statement with hypotheses a witness that
meets them (`witness_<statement>`, one for each clause).
-/
namespace Sys2Proof.Tests

open Sys2Proof.Machine

/-! ## Small states -/

/-- The machine in the step `p` of the command `i`, with the transport's next answers. -/
def at_ (i : Instr) (p : Pc) (as : List Answer := []) : State :=
  { State.reset with pc := p, cmd := encode i, busy := true, answers := as }

/-- The idle machine with a word offered. -/
def offered (w : CmdWord) : State := { State.reset with port := [w] }

/-- An answer of three given bytes. -/
def bytes (b0 b1 b2 : Byte) : Burst := ⟨b0, b1, b2⟩

/-- A transaction in which every call returns `ok`, the last one with these bytes. -/
def acks (b0 b1 b2 : Byte) : Acks := ⟨bytes 0 0 0, bytes 0 0 0, bytes 0 0 0, bytes b0 b1 b2⟩

/-! ## Well-formedness: an ill-formed word for each check, and the well-formed words beside it -/

/-- An operation code that R85 does not assign. -/
theorem test_wf_refuses_operation_code : wordWellFormed 0x050000 = false := by decide

/-- A format-Z word with `a ≠ 0` (R81). -/
theorem test_wf_refuses_z_with_a : wordWellFormed 0x010100 = false := by decide

/-- A format-Z word with `d ≠ 0` (R81). -/
theorem test_wf_refuses_z_with_d : wordWellFormed 0x040001 = false := by decide

/-- A format-A word with `d ≠ 0` (R82). -/
theorem test_wf_refuses_a_with_d : wordWellFormed 0x100C01 = false := by decide

/-- The words of 30_encoding.md sections 1 and 2 are accepted. -/
theorem test_wf_accepts :
    wordWellFormed 0x010000 = true ∧ wordWellFormed 0x100C00 = true ∧
      wordWellFormed 0x111307 = true := by decide

/-! ## Decoding: each row's word written out bit by bit from R80 and R85 -/

theorem test_decode_init : decodeTableWord 24 0b000000010000000000000000 = some .init := by decide

theorem test_decode_getp : decodeTableWord 24 0b000000100000000000000000 = some .getp := by decide

theorem test_decode_geta : decodeTableWord 24 0b000000110000000000000000 = some .geta := by decide

theorem test_decode_gett : decodeTableWord 24 0b000001000000000000000000 = some .gett := by decide

/-- R103's example: `RDREG 0x0C` is 0x100C00. -/
theorem test_decode_rdreg :
    decodeTableWord 24 0b000100000000110000000000 = some (.rdreg 0x0C) := by decide

/-- R104's example: `WRREG 0x13, 0x07` is 0x111307: `a` above `d`. -/
theorem test_decode_wrreg :
    decodeTableWord 24 0b000100010001001100000111 = some (.wrreg 0x13 0x07) := by decide

/-- R91: `PROBE` is `RDREG 0x0C`. -/
theorem test_probe_word : encode probe = 0x100C00 := by decide

/-- The edges of the ranges of R86. -/
theorem test_decode_reserved :
    decode 0x000000 = .error .opcode ∧ decode 0x0F0000 = .error .opcode ∧
      decode 0x120000 = .error .opcode ∧ decode 0xFFFFFF = .error .opcode ∧
      decode 0x010001 = .error .formatZOperand ∧ decode 0x04FF00 = .error .formatZOperand ∧
      decode 0x100001 = .error .formatAData := by decide

/-! ## One step of each command -/

/-- R24 and R120: `INIT` offered at `IDLE` clears `OK` and begins with `T.begin`. -/
theorem test_init_accepted :
    step ({ State.reset with ok := true }.withFetchWord 24 0x010000) =
      .next { State.reset with cmd := 0x010000, busy := true, pc := .init .begin } := by rfl

/-- V-I: identity 0xFF raises `DeviceNotFound`, `RB` kept (R121). -/
theorem test_init_wrong_device :
    exec .init { at_ .init (.init .check) with rb := 0xFF } =
      .next { State.reset with cmd := 0x010000, rb := 0xFF, err := 1, done := true } := by rfl

/-- R131: `GETP`'s ARM writes `CW_ARM_BAR`, with the reference value 0x39 (R5). -/
theorem test_getp_arm_word :
    exec .getp (at_ .getp (.getp (.arm .three)) [.ok (bytes 0 0 0)]) =
      .next { at_ .getp (.getp (.arm .four)) with trace := [⟨.write 0x39, .ok []⟩] } := by rfl

/-- R152: 0x62, 0xF3, 0x40 gives 101325.0. -/
theorem test_getp_convert :
    exec .getp { at_ .getp (.getp (.meas .convert)) with acc := 0x62F340 } =
      .next { at_ .getp (.getp (.meas .done)) with acc := 0x62F340, res := 0x47C5E680 } := by rfl

/-- R131: `GETA`'s ARM writes the same word as `INIT`, 0x3B. -/
theorem test_geta_arm_word :
    exec .geta (at_ .geta (.geta (.arm .three)) [.ok (bytes 0 0 0)]) =
      .next { at_ .geta (.geta (.arm .four)) with trace := [⟨.write 0x3B, .ok []⟩] } := by rfl

/-- R136: 0xFE, 0xD4, 0x80 gives -299.5, bits 0xC395C000. -/
theorem test_geta_convert_negative :
    exec .geta { at_ .geta (.geta (.meas .convert)) with acc := 0xFED480 } =
      .next { at_ .geta (.geta (.meas .done)) with acc := 0xFED480, res := 0xC395C000 } := by rfl

/-- R137, C2: `GETT` has no ARM; its first call opens a status read. -/
theorem test_gett_has_no_arm :
    exec .gett State.reset =
      .next { State.reset with cmd := 0x040000, busy := true, pc := .gett (.poll .one) } := by rfl

/-- R155: 0xE7, 0x00 gives 231.0, not -25.0. -/
theorem test_gett_not_sign_extended :
    exec .gett { at_ .gett (.gett .convert) with acc := 0xE700 } =
      .next { at_ .gett (.gett .done) with acc := 0xE700, res := 0x43670000 } := by rfl

/-- R103's example: the identity byte 0xC4 read from 0x0C is latched in `RB`. -/
theorem test_rdreg_latches :
    exec (.rdreg 0x0C) (at_ (.rdreg 0x0C) (.rdreg (.xfer .four)) [.ok (bytes 0xC4 0x11 0x22)]) =
      .next { at_ (.rdreg 0x0C) (.rdreg .finish) with
        rb := 0xC4, trace := [⟨.read 0x60 .one, .ok [0xC4]⟩] } := by rfl

/-- V-E: a bus error at the address phase ends the run at once, whatever the error (R105, R172). -/
theorem test_rdreg_bus_error (e : TErr) :
    exec (.rdreg 0x0C) (at_ (.rdreg 0x0C) (.rdreg (.xfer .one)) [.err e]) =
      .next { State.reset with
        cmd := 0x100C00, err := 2, terr := e, done := true,
        trace := [⟨.start 0x60, .err e⟩] } := by rfl

/-- R104's example: the register address goes out first, then the data. -/
theorem test_wrreg_address :
    exec (.wrreg 0x13 0x07) (at_ (.wrreg 0x13 0x07) (.wrreg (.xfer .two)) [.ok (bytes 0 0 0)]) =
      .next { at_ (.wrreg 0x13 0x07) (.wrreg (.xfer .three)) with
        trace := [⟨.write 0x13, .ok []⟩] } := by rfl

/-- R104: the transaction of a write ends with `T.end(0)`. -/
theorem test_wrreg_end :
    exec (.wrreg 0x13 0x07) (at_ (.wrreg 0x13 0x07) (.wrreg (.xfer .four)) [.ok (bytes 0 0 0)]) =
      .next { at_ (.wrreg 0x13 0x07) (.wrreg .finish) with
        trace := [⟨.endTx false, .ok []⟩] } := by rfl

/-- V-E2: a reserved word with `INIT`'s operation code clears `OK` all the same (R24, R173). -/
theorem test_reserved_init_word :
    step { offered 0x010001 with ok := true } =
      .next { State.reset with cmd := 0x010001, err := 3, done := true } := by rfl

/-! ## Witnesses: encoding -/

theorem witness_DecodeOfEncode :
    Instr.init.wellFormed = true ∧ (Instr.rdreg 0xFF).wellFormed = true ∧
      (Instr.wrreg 0x00 0xFF).wellFormed = true := by decide

theorem witness_EncodeOfDecode : decode 0x11FF00 = .ok (.wrreg 0xFF 0x00) := by decide

theorem witness_DecodeFollowsOpcodeMap :
    (⟨"RDREG", 0x100000, 0xFF00FF⟩ : OpcodeRow) ∈ opcodeMap ∧
      OpcodeRow.selects ⟨"RDREG", 0x100000, 0xFF00FF⟩ 0x10FF00 = true ∧
      (∀ r ∈ opcodeMap, r.selects 0x10FF01 = false) := by decide

/-! ## Witnesses: the step -/

theorem witness_StepRunsDecodedCommand_offered :
    (offered 0x11FF00).resetReq = false ∧ (offered 0x11FF00).pc = .idle ∧
      (offered 0x11FF00).port = [0x11FF00] ∧ decode 0x11FF00 = .ok (.wrreg 0xFF 0x00) := by decide

theorem witness_StepRunsDecodedCommand_running :
    (at_ (.rdreg 0xFF) (.rdreg .finish)).Undisturbed ∧
      (at_ (.rdreg 0xFF) (.rdreg .finish)).pc.running (at_ (.rdreg 0xFF) (.rdreg .finish)).cmd =
        some (.rdreg 0xFF) ∧
      decode (at_ (.rdreg 0xFF) (.rdreg .finish)).cmd = .ok (.rdreg 0xFF) :=
  ⟨⟨rfl, rfl, rfl⟩, by decide, by decide⟩

theorem witness_StepRunsDecodedCommand_waiting :
    State.reset.resetReq = false ∧ State.reset.pc = .idle ∧ State.reset.port = [] := by decide

theorem witness_AcceptanceLatchesCommand : State.reset.pc = .idle := by decide

theorem witness_AcceptanceGoesToFirstStep :
    State.reset.pc = .idle ∧ exec .gett State.reset =
      .next { State.reset with cmd := 0x040000, busy := true, pc := .gett (.poll .one) } :=
  ⟨rfl, rfl⟩

theorem witness_ReservedWordRaisesIllegalCommand :
    (offered 0x01FF00).resetReq = false ∧ (offered 0x01FF00).pc = .idle ∧
      (offered 0x01FF00).port = [0x01FF00] ∧
      (∀ r ∈ opcodeMap, r.selects 0x01FF00 = false) := by decide

theorem witness_OfferedWordWaitsWhileRunning :
    ({ at_ .gett (.gett .done) with port := [0x010000] } : State).resetReq = false ∧
      ({ at_ .gett (.gett .done) with port := [0x010000] } : State).pc ≠ .idle ∧
      step { at_ .gett (.gett .done) with port := [0x010000] } =
        .next { State.reset with cmd := 0x040000, done := true, port := [0x010000] } :=
  ⟨rfl, by decide, rfl⟩

theorem witness_OtherCommandNotAccepted :
    (at_ .gett (.gett .done)).pc.running (at_ .gett (.gett .done)).cmd = some .gett ∧
      (Instr.rdreg 0x00).mnemonic ≠ Instr.gett.mnemonic := by decide

/-- A use by another agent now, and one that has ended, each with and without a reset requested. -/
theorem witness_ForeignUseRefused (r : Bool) :
    ({ at_ .gett (.gett .test) with foreignUse := true, resetReq := r } : State).pc ≠ .idle ∧
      ({ at_ .gett (.gett .test) with foreignUse := true, resetReq := r } : State).foreignUse =
        true ∧
      ({ at_ .gett (.gett .test) with disturbed := true, resetReq := r } : State).disturbed =
        true := by
  cases r <;> decide

/-- Another agent's use that begins and ends between two steps. -/
theorem witness_DisturbanceIsNotForgotten :
    (at_ .getp (.getp (.meas .test))).pc ≠ .idle ∧
      (([HostMove.setForeignUse false].foldl (fun u m => m.apply u)
        ((HostMove.setForeignUse true).apply (at_ .getp (.getp (.meas .test))))).resetReq = false) ∧
      (([HostMove.setForeignUse false].foldl (fun u m => m.apply u)
        ((HostMove.setForeignUse true).apply (at_ .getp (.getp (.meas .test))))).foreignUse =
          false) := by decide

theorem witness_ResetActionAbandonsRun :
    ({ at_ .gett (.gett (.read .two)) with
        resetReq := true, inFlight := some (.write 0x04) } : State).resetReq = true := by decide

/-! ## Witnesses: invariants -/

/-- `GETP` about to convert the largest burst, the pressure bit seen. -/
def converting : State :=
  { at_ .getp (.getp (.meas .convert)) with rb := 0x04, acc := 0xFFFFFF }

/-- `RDREG 0x0C` after `T.end(1)`, its read called and not yet returned. -/
def holding : State :=
  { at_ (.rdreg 0x0C) (.rdreg (.xfer .four)) with
    trace := [⟨.start 0x60, .ok []⟩, ⟨.write 0x0C, .ok []⟩, ⟨.endTx true, .ok []⟩]
    inFlight := some (.read 0x60 .one) }

theorem reference_legal : LegalParams referenceParams :=
  ⟨by decide, by decide, by decide, by decide, by decide⟩

theorem converting_inv : Invariant converting where
  busy_iff := by decide
  running_flags := by decide
  fresh_flags := by decide
  running_cmd := fun i h => by cases h; decide
  init_ok := fun st h => by cases h
  init_identity := fun st h => by cases h
  read_after_ready := fun q m h _ => by cases h; decide
  acc_bound := fun q h => by cases h; decide
  in_flight := fun c h => by cases h
  disturbed_run := by decide
  foreign_disturbs := by decide
  trace_phase := ⟨.free, rfl, .inl rfl⟩
  legal_params := reference_legal

theorem holding_inv : Invariant holding where
  busy_iff := by decide
  running_flags := by decide
  fresh_flags := by decide
  running_cmd := fun i h => by cases h; decide
  init_ok := fun st h => by cases h
  init_identity := fun st h => by cases h
  read_after_ready := fun q m h => by cases h
  acc_bound := fun q h => by cases h
  in_flight := fun c h => by cases h; rfl
  disturbed_run := by decide
  foreign_disturbs := by decide
  trace_phase := ⟨.held, rfl, .inl rfl⟩
  legal_params := reference_legal

theorem reset_reachable : Reachable State.reset :=
  .initial ⟨reference_legal, 0, 0, 0, 0, TErr.first, 0, rfl⟩

theorem witness_StepKeepsInvariant :
    Invariant converting ∧
      step converting =
        .next { converting with res := 0x487FFFF0, pc := .getp (.meas .done) } :=
  ⟨converting_inv, rfl⟩

theorem witness_HostMovesKeepInvariant :
    Invariant holding ∧
      HostMove.requestReset.apply holding = { holding with resetReq := true } :=
  ⟨holding_inv, rfl⟩

/-- A running state is reachable: a word is offered to the machine after reset and accepted. -/
theorem witness_BusyExactlyWhileRunning :
    Reachable { State.reset with cmd := 0x040000, busy := true, pc := .gett (.poll .one) } :=
  .step (.host reset_reachable (.drivePort [0x040000])) rfl

/-- A reachable state with a call in its trace, made by the step `GETT.POLL.0`. -/
theorem witness_TracesAreMadeOfShapes :
    Reachable
      { State.reset with
        cmd := 0x040000, busy := true, pc := .gett (.poll .two)
        trace := [⟨.start 0x60, .ok []⟩] } :=
  .step (.host witness_BusyExactlyWhileRunning (.scriptAnswers [.ok (bytes 0 0 0)])) rfl

theorem witness_HeldBusOnlyReads :
    Invariant holding ∧ holding.pc.opens = false ∧ tracePhase holding.trace = some .held :=
  ⟨holding_inv, rfl, rfl⟩

/-! ## Witnesses: calls -/

theorem witness_OkAnswerCompletesTheNamedCall :
    (at_ .init (.init .begin) [.ok (bytes 1 2 3)]).Undisturbed ∧
      (at_ .init (.init .begin) [.ok (bytes 1 2 3)]).nextCall = some .begin ∧
      (∀ ms, Call.begin ≠ .sleep ms) ∧
      (at_ .init (.init .begin) [.ok (bytes 1 2 3)]).answers = [.ok (bytes 1 2 3)] :=
  ⟨⟨rfl, rfl, rfl⟩, rfl, by simp, rfl⟩

theorem witness_OkAnswerCompletesTheNamedCall_sleep :
    ({ at_ .gett (.gett .sleep) with wakes := [true] } : State).Undisturbed ∧
      (at_ .gett (.gett .sleep)).pc.measuring = some (.temperature, .sleep) ∧
      ({ at_ .gett (.gett .sleep) with wakes := [true] } : State).wakes = [true] :=
  ⟨⟨rfl, rfl, rfl⟩, rfl, rfl⟩

/-- At READ.0, whose step has cleared `ACC`, and at the last call of a write. -/
theorem witness_BusErrorEndsTheRun :
    ((at_ .gett (.gett (.read .one)) [.err TErr.first]).Undisturbed ∧
      (at_ .gett (.gett (.read .one)) [.err TErr.first]).nextCall = some (.start 0x60) ∧
      (∀ ms, Call.start 0x60 ≠ .sleep ms) ∧
      (at_ .gett (.gett (.read .one)) [.err TErr.first]).answers = [.err TErr.first]) ∧
    ((at_ (.wrreg 1 2) (.wrreg (.xfer .four)) [.err TErr.first]).Undisturbed ∧
      (at_ (.wrreg 1 2) (.wrreg (.xfer .four)) [.err TErr.first]).nextCall = some (.endTx false) ∧
      (∀ ms, Call.endTx false ≠ .sleep ms) ∧
      (at_ (.wrreg 1 2) (.wrreg (.xfer .four)) [.err TErr.first]).answers = [.err TErr.first]) :=
  ⟨⟨⟨rfl, rfl, rfl⟩, rfl, by simp, rfl⟩, ⟨⟨rfl, rfl, rfl⟩, rfl, by simp, rfl⟩⟩

theorem witness_PendingCallBlocks :
    (at_ (.rdreg 9) (.rdreg (.xfer .two)) [.pending]).Undisturbed ∧
      (at_ (.rdreg 9) (.rdreg (.xfer .two)) [.pending]).nextCall = some (.write 9) ∧
      (∀ ms, Call.write 9 ≠ .sleep ms) ∧
      (at_ (.rdreg 9) (.rdreg (.xfer .two)) [.pending]).answers = [.pending] :=
  ⟨⟨rfl, rfl, rfl⟩, rfl, by simp, rfl⟩

theorem witness_PendingCallBlocks_sleep :
    ({ at_ .getp (.getp (.meas .sleep)) with wakes := [false] } : State).Undisturbed ∧
      (at_ .getp (.getp (.meas .sleep))).pc.measuring = some (.pressure, .sleep) ∧
      ({ at_ .getp (.getp (.meas .sleep)) with wakes := [false] } : State).wakes = [false] :=
  ⟨⟨rfl, rfl, rfl⟩, rfl, rfl⟩

theorem witness_AtMostOneCallPerStep :
    Invariant { holding with answers := [.ok (bytes 0xC4 0 0)] } ∧
      step { holding with answers := [.ok (bytes 0xC4 0 0)] } =
        .next { holding with
          rb := 0xC4, inFlight := none, pc := .rdreg .finish
          trace := holding.trace ++ [⟨.read 0x60 .one, .ok [0xC4]⟩] } :=
  ⟨{ holding_inv with }, rfl⟩

/-! ## Witnesses: which steps write a register -/

theorem witness_OnlyConvertWritesRes :
    converting.resetReq = false ∧
      step converting = .next { converting with res := 0x487FFFF0, pc := .getp (.meas .done) } ∧
      (0x487FFFF0 : Word) ≠ converting.res :=
  ⟨rfl, rfl, by decide⟩

/-- READ.0 clears an old `ACC`, even when its call has not returned. -/
theorem witness_OnlyReadWritesAcc_cleared :
    step { at_ .gett (.gett (.read .one)) [.pending] with acc := 1 } =
        .next { at_ .gett (.gett (.read .one)) with inFlight := some (.start 0x60) } ∧
      (0 : Word) ≠ 1 :=
  ⟨rfl, by decide⟩

/-- READ.3 assembles the largest two bytes. -/
theorem witness_OnlyReadWritesAcc_assembled :
    step (at_ .gett (.gett (.read .four)) [.ok (bytes 0xFF 0xFF 0x01)]) =
        .next { at_ .gett (.gett .convert) with
          acc := 0xFFFF, trace := [⟨.read 0x60 .two, .ok [0xFF, 0xFF]⟩] } ∧
      (0xFFFF : Word) ≠ 0 :=
  ⟨rfl, by decide⟩

theorem witness_OnlyByteReadsWriteRb :
    step (at_ .geta (.geta (.meas (.poll .four))) [.ok (bytes 0xFF 0 0)]) =
        .next { at_ .geta (.geta (.meas .test)) with
          rb := 0xFF, trace := [⟨.read 0x60 .one, .ok [0xFF]⟩] } ∧
      (0xFF : Byte) ≠ 0 :=
  ⟨rfl, by decide⟩

theorem witness_OnlyBusErrorWritesTerr (e : TErr) :
    (at_ .init (.init .begin) [.err e]).resetReq = false ∧
      step (at_ .init (.init .begin) [.err e]) =
        .next { State.reset with
          cmd := 0x010000, err := 2, terr := e, done := true, trace := [⟨.begin, .err e⟩] } :=
  ⟨rfl, rfl⟩

theorem witness_OnlyInitWritesOk_set :
    step (at_ .init (.init .finish)) =
        .next { State.reset with cmd := 0x010000, ok := true, done := true } ∧
      true ≠ (at_ .init (.init .finish)).ok :=
  ⟨rfl, by decide⟩

theorem witness_OnlyInitWritesOk_cleared :
    step { offered 0x010000 with ok := true } =
        .next { State.reset with cmd := 0x010000, busy := true, pc := .init .begin } ∧
      false ≠ ({ offered 0x010000 with ok := true } : State).ok :=
  ⟨rfl, by decide⟩

/-- Acceptance clears `ERR`, or sets it to 3. -/
theorem witness_ErrWrittenByAcceptanceAndRaise_accepted :
    step { offered 0x040000 with err := 2 } =
        .next { State.reset with cmd := 0x040000, busy := true, pc := .gett (.poll .one) } ∧
      step (offered 0x000000) = .next { State.reset with err := 3, done := true } ∧
      (0 : BitVec 2) ≠ 2 ∧ (3 : BitVec 2) ≠ 0 :=
  ⟨rfl, rfl, by decide, by decide⟩

/-- The identity check raises 1; a bus error raises 2. -/
theorem witness_ErrWrittenByAcceptanceAndRaise_raised :
    step (at_ .init (.init .check)) =
        .next { State.reset with cmd := 0x010000, err := 1, done := true } ∧
      step (at_ .gett (.gett (.poll .four)) [.err TErr.first]) =
        .next { State.reset with
          cmd := 0x040000, err := 2, done := true, trace := [⟨.read 0x60 .one, .err TErr.first⟩] } ∧
      (1 : BitVec 2) ≠ 0 ∧ (2 : BitVec 2) ≠ 0 :=
  ⟨rfl, rfl, by decide, by decide⟩

/-! ## Witnesses: frames -/

theorem witness_RdregFrame :
    exec (.rdreg 0xFF) (at_ (.rdreg 0xFF) (.rdreg (.xfer .three)) [.ok (bytes 0 0 0)]) =
        .next { at_ (.rdreg 0xFF) (.rdreg (.xfer .four)) with trace := [⟨.endTx true, .ok []⟩] } ∧
      (at_ (.rdreg 0xFF) (.rdreg (.xfer .three)) [.ok (bytes 0 0 0)]).pc ≠ .rdreg (.xfer .four) :=
  ⟨rfl, by decide⟩

theorem witness_WrregFrame :
    exec (.wrreg 0x26 0xFF) (at_ (.wrreg 0x26 0xFF) (.wrreg .finish)) =
      .next { State.reset with cmd := 0x1126FF, done := true } := by rfl

theorem witness_InitFrame :
    exec .init (at_ .init (.init (.evcfgWrite .three)) [.ok (bytes 0 0 0)]) =
        .next { at_ .init (.init (.evcfgWrite .four)) with trace := [⟨.write 0x07, .ok []⟩] } ∧
      (at_ .init (.init (.evcfgWrite .three))).pc ≠ .init (.idRead .four) ∧
      (at_ .init (.init (.evcfgWrite .three))).pc ≠ .idle ∧
      (at_ .init (.init (.evcfgWrite .three))).pc ≠ .init .finish :=
  ⟨rfl, by decide, by decide, by decide⟩

/-- A step that is none of CONVERT, READ.0, READ.3 and POLL.3, of each command. -/
theorem witness_MeasurementFrame :
    exec .getp (at_ .getp (.getp (.meas .done))) =
        .next { State.reset with cmd := 0x020000, done := true } ∧
      exec .geta (at_ .geta (.geta (.meas .done))) =
        .next { State.reset with cmd := 0x030000, done := true } ∧
      exec .gett (at_ .gett (.gett .done)) =
        .next { State.reset with cmd := 0x040000, done := true } ∧
      (∀ q, (at_ .gett (.gett .done)).pc.measuring ≠ some (q, .convert)) ∧
      (∀ q, (at_ .gett (.gett .done)).pc.measuring ≠ some (q, .read .one)) ∧
      (∀ q, (at_ .gett (.gett .done)).pc.measuring ≠ some (q, .read .four)) ∧
      (∀ q, (at_ .gett (.gett .done)).pc.measuring ≠ some (q, .poll .four)) :=
  ⟨rfl, rfl, rfl, by simp [at_, Pc.measuring], by simp [at_, Pc.measuring],
    by simp [at_, Pc.measuring], by simp [at_, Pc.measuring]⟩

/-! ## Witnesses: the commands, step by step -/

theorem witness_TransactionCommandsComplete :
    ((at_ (.rdreg 0xFF) (.rdreg (.xfer .four)) [.ok (bytes 0xFF 0 0)]).pc = .rdreg (.xfer .four) ∧
      (at_ (.rdreg 0xFF) (.rdreg (.xfer .four)) [.ok (bytes 0xFF 0 0)]).answers =
        [.ok (bytes 0xFF 0 0)]) ∧
    ((at_ (.wrreg 0 0xFF) (.wrreg (.xfer .four)) [.ok (bytes 0 0 0)]).pc = .wrreg (.xfer .four) ∧
      (at_ (.wrreg 0 0xFF) (.wrreg (.xfer .four)) [.ok (bytes 0 0 0)]).answers =
        [.ok (bytes 0 0 0)]) ∧
    ((at_ (.wrreg 0 0xFF) (.wrreg (.xfer .three)) [.ok (bytes 0 0 0)]).pc = .wrreg (.xfer .three) ∧
      (at_ (.wrreg 0 0xFF) (.wrreg (.xfer .three)) [.ok (bytes 0 0 0)]).answers =
        [.ok (bytes 0 0 0)]) ∧
    (at_ (.rdreg 0) (.rdreg .finish)).pc = .rdreg .finish ∧
    (at_ (.wrreg 0 0) (.wrreg .finish)).pc = .wrreg .finish ∧
    (at_ .init (.init .finish)).pc = .init .finish := by decide

theorem witness_MeasurementsConvertAndEnd :
    (at_ .getp (.getp (.meas .convert))).pc = .getp (.meas .convert) ∧
    (at_ .geta (.geta (.meas .convert))).pc = .geta (.meas .convert) ∧
    (at_ .gett (.gett .convert)).pc = .gett .convert ∧
    (at_ .getp (.getp (.meas .done))).pc = .getp (.meas .done) ∧
    (at_ .geta (.geta (.meas .done))).pc = .geta (.meas .done) ∧
    (at_ .gett (.gett .done)).pc = .gett .done := by decide

/-- The expected byte, and a byte that differs in its lowest bit only. -/
theorem witness_IdentityCheckIsExact :
    (at_ .init (.init .check)).pc = .init .check ∧
      ({ at_ .init (.init .check) with rb := 0xC4 } : State).rb = 0xC4 ∧
      ({ at_ .init (.init .check) with rb := 0xC5 } : State).rb ≠ 0xC4 := by decide

/-- The masked bit alone set, and every bit but it. -/
theorem witness_PollTestsTheMaskedBit :
    (at_ .getp (.getp (.meas .test))).pc = .getp (.meas .test) ∧
      (at_ .geta (.geta (.meas .test))).pc = .geta (.meas .test) ∧
      (at_ .gett (.gett .test)).pc = .gett .test ∧
      ((0x04 : Byte) &&& referenceParams.maskPdr ≠ 0 ∧ (0xFB : Byte) &&& referenceParams.maskPdr = 0) ∧
      ((0x02 : Byte) &&& referenceParams.maskTdr ≠ 0 ∧ (0xFD : Byte) &&& referenceParams.maskTdr = 0) := by
  decide

theorem witness_ReadClearsAndAssembles :
    (at_ .gett (.gett (.read .one))).pc.running (encode .gett) = some .gett ∧
      (at_ .gett (.gett (.read .one))).pc.measuring = some (.temperature, .read .one) ∧
      (at_ .gett (.gett (.read .one)) [.ok (bytes 0 0 0)]).answers = [.ok (bytes 0 0 0)] ∧
      (at_ .getp (.getp (.meas (.read .four)))).pc = .getp (.meas (.read .four)) ∧
      (at_ .geta (.geta (.meas (.read .four)))).pc = .geta (.meas (.read .four)) ∧
      (at_ .gett (.gett (.read .four))).pc = .gett (.read .four) := by decide

/-! ## Witnesses: the commands, whole -/

/-- The idle machine with a command offered, another word behind it, and a script. -/
def ready (i : Instr) (as : List Answer) (ws : List Bool := []) : State :=
  { State.reset with port := [encode i, 0x000000], answers := as, wakes := ws }

theorem ready_starts (i : Instr) (as : List Answer) (ws : List Bool) :
    (ready i as ws).Undisturbed ∧ (ready i as ws).pc = .idle ∧
      (ready i as ws).port = encode i :: [0x000000] :=
  ⟨⟨rfl, rfl, rfl⟩, rfl, rfl⟩

theorem witness_RdregReadsOneRegister :
    (ready (.rdreg 0xFF) (acks 0xC4 0 0).answers).Undisturbed ∧
      (ready (.rdreg 0xFF) (acks 0xC4 0 0).answers).pc = .idle ∧
      (ready (.rdreg 0xFF) (acks 0xC4 0 0).answers).port = encode (.rdreg 0xFF) :: [0x000000] ∧
      (ready (.rdreg 0xFF) (acks 0xC4 0 0).answers).answers = (acks 0xC4 0 0).answers ++ [] :=
  ⟨⟨rfl, rfl, rfl⟩, rfl, rfl, rfl⟩

theorem witness_WrregWritesOneRegister :
    (ready (.wrreg 0 0xFF) ((acks 0 0 0).answers ++ [.pending])).Undisturbed ∧
      (ready (.wrreg 0 0xFF) ((acks 0 0 0).answers ++ [.pending])).pc = .idle ∧
      (ready (.wrreg 0 0xFF) ((acks 0 0 0).answers ++ [.pending])).port =
        encode (.wrreg 0 0xFF) :: [0x000000] ∧
      (ready (.wrreg 0 0xFF) ((acks 0 0 0).answers ++ [.pending])).answers =
        (acks 0 0 0).answers ++ [.pending] :=
  ⟨⟨rfl, rfl, rfl⟩, rfl, rfl, rfl⟩

/-- The script of `INIT` with a present device. -/
def initScript : List Answer :=
  .ok (bytes 0 0 0) :: ((acks 0xC4 0 0).answers ++ (acks 0 0 0).answers ++ (acks 0 0 0).answers ++ [])

theorem witness_InitConfiguresPresentDevice :
    ((ready .init initScript).Undisturbed ∧ (ready .init initScript).pc = .idle ∧
      (ready .init initScript).port = encode .init :: [0x000000]) ∧
      (ready .init initScript).answers = initScript ∧ (acks 0xC4 0 0).b4.b0 = 0xC4 :=
  ⟨ready_starts .init initScript [], rfl, rfl⟩

/-- The script of `INIT` with a wrong device. -/
def wrongScript : List Answer := .ok (bytes 0 0 0) :: ((acks 0xFF 0 0).answers ++ [])

theorem witness_InitWritesNothingToWrongDevice :
    ((ready .init wrongScript).Undisturbed ∧ (ready .init wrongScript).pc = .idle ∧
      (ready .init wrongScript).port = encode .init :: [0x000000]) ∧
      (ready .init wrongScript).answers = wrongScript ∧ (acks 0xFF 0 0).b4.b0 ≠ 0xC4 :=
  ⟨ready_starts .init wrongScript [], rfl, by decide⟩

/-- The script of an armed measurement with one not-ready poll: every bit but the masked one. -/
def armedScript : List Answer :=
  (acks 0 0 0).answers ++
    ([acks 0xFB 0 0].flatMap Acks.answers ++
      ((acks 0x04 0 0).answers ++ ((acks 0x62 0xF3 0x40).answers ++ [])))

theorem witness_GetpMeasuresPressure :
    ((ready .getp armedScript [true]).Undisturbed ∧ (ready .getp armedScript [true]).pc = .idle ∧
      (ready .getp armedScript [true]).port = encode .getp :: [0x000000]) ∧
      (ready .getp armedScript [true]).answers = armedScript ∧
      (ready .getp armedScript [true]).wakes = List.replicate [acks 0xFB 0 0].length true ++ [] ∧
      (∀ p ∈ [acks 0xFB 0 0], p.b4.b0 &&& State.reset.params.maskPdr = 0) ∧
      (acks 0x04 0 0).b4.b0 &&& State.reset.params.maskPdr ≠ 0 :=
  ⟨ready_starts .getp armedScript [true], rfl, rfl, by decide, by decide⟩

/-- The script of an armed measurement whose first poll finds every bit set. -/
def readyScript : List Answer :=
  (acks 0 0 0).answers ++
    (([] : List Acks).flatMap Acks.answers ++
      ((acks 0xFF 0 0).answers ++ ((acks 0xFE 0xD4 0x80).answers ++ [])))

theorem witness_GetaMeasuresAltitude :
    ((ready .geta readyScript).Undisturbed ∧ (ready .geta readyScript).pc = .idle ∧
      (ready .geta readyScript).port = encode .geta :: [0x000000]) ∧
      (ready .geta readyScript).answers = readyScript ∧
      (ready .geta readyScript).wakes = List.replicate ([] : List Acks).length true ++ [] ∧
      (∀ p ∈ ([] : List Acks), p.b4.b0 &&& State.reset.params.maskPdr = 0) ∧
      (acks 0xFF 0 0).b4.b0 &&& State.reset.params.maskPdr ≠ 0 :=
  ⟨ready_starts .geta readyScript [], rfl, rfl, by decide, by decide⟩

/-- The script of `GETT` with two not-ready polls. -/
def gettScript : List Answer :=
  [acks 0x00 0 0, acks 0xFD 0 0].flatMap Acks.answers ++
    ((acks 0x02 0 0).answers ++ ((acks 0x19 0x80 0).answers ++ []))

theorem witness_GettMeasuresTemperature :
    ((ready .gett gettScript [true, true]).Undisturbed ∧
      (ready .gett gettScript [true, true]).pc = .idle ∧
      (ready .gett gettScript [true, true]).port = encode .gett :: [0x000000]) ∧
      (ready .gett gettScript [true, true]).answers = gettScript ∧
      (ready .gett gettScript [true, true]).wakes =
        List.replicate [acks 0x00 0 0, acks 0xFD 0 0].length true ++ [] ∧
      (∀ p ∈ [acks 0x00 0 0, acks 0xFD 0 0], p.b4.b0 &&& State.reset.params.maskTdr = 0) ∧
      (acks 0x02 0 0).b4.b0 &&& State.reset.params.maskTdr ≠ 0 :=
  ⟨ready_starts .gett gettScript [true, true], rfl, rfl, by decide, by decide⟩

/-! ## Witnesses: the poll -/

/-- Going on in the poll, leaving it with the bit set, and leaving it by a bus error. -/
theorem witness_PollLeftOnlyWhenReady :
    (at_ .gett (.gett .test)).resetReq = false ∧
      (at_ .gett (.gett .test)).pc.measuring = some (.temperature, .test) ∧
      MeasStep.test.afterReady = false ∧
      step (at_ .gett (.gett .test)) = .next (at_ .gett (.gett .sleep)) ∧
      step { at_ .gett (.gett .test) with rb := 0x02 } =
        .next { at_ .gett (.gett (.read .one)) with rb := 0x02 } ∧
      step (at_ .gett (.gett (.poll .one)) [.err TErr.first]) =
        .next { State.reset with
          cmd := 0x040000, err := 2, done := true, trace := [⟨.start 0x60, .err TErr.first⟩] } :=
  ⟨rfl, rfl, rfl, rfl, rfl, rfl⟩

theorem witness_NotReadyDeviceKeepsPolling :
    ({ at_ .gett (.gett (.poll .one)) with
        answers := (acks 0xFD 0 0).answers, wakes := [true] } : State).Undisturbed ∧
      (at_ .gett (.gett (.poll .one))).pc.measuring = some (.temperature, .poll .one) ∧
      (at_ .gett (.gett (.poll .one))).inFlight = none ∧
      (acks 0xFD 0 0).answers = [acks 0xFD 0 0].flatMap Acks.answers ++ [] ∧
      [true] = List.replicate [acks 0xFD 0 0].length true ++ [] ∧
      (∀ p ∈ [acks 0xFD 0 0], readySet p.b4.b0 (readyMask .temperature referenceParams) = false) :=
  ⟨⟨rfl, rfl, rfl⟩, rfl, rfl, rfl, rfl, by decide⟩

/-! ## Witnesses: conversion, noninterference -/

theorem witness_PaddingBitsAreDropped :
    (0xFFFFF0 : Word).toNat / 16 = (0xFFFFFF : Word).toNat / 16 ∧
      (0xFFFFFF : Word).toNat < 2 ^ 24 ∧ (0xFFFF : Word).toNat < 2 ^ 16 := by decide

theorem witness_PressureConversionExact :
    (0xFFFFFF : Word).toNat < 2 ^ 24 ∧ (0 : Word).toNat ≤ (0xFFFFFF : Word).toNat := by decide

/-- The most negative and the largest altitude. -/
theorem witness_AltitudeConversionExact :
    (0x800000 : Word).toNat < 2 ^ 24 ∧ ¬ (0x800000 : Word).toNat / 16 < 2 ^ 19 ∧
      (0x7FFFFF : Word).toNat / 16 < 2 ^ 19 := by decide

theorem witness_FixedPointToFloatExact :
    (2 : Nat) ≤ 4 ∧ (0 : BitVec 20) = 0 ∧ (0xFFFFF : BitVec 20) ≠ 0 ∧ (4 = 2 ∨ 4 = 4) := by decide

theorem witness_DivisionsExactResultsNormal :
    (2 = 2 ∨ 2 = 4) ∧ (4 = 2 ∨ 4 = 4) ∧ (1 : BitVec 20) ≠ 0 := by decide

theorem witness_ResultRegistersAreNotRead :
    State.SameButResults converting
      { converting with res := 0xFFFFFFFF, ok := true, err := 3, terr := TErr.first, done := true } := by
  rfl

/-- Two idle machines whose registers all differ, over the two steps of a run that a bus error ends. -/
theorem witness_NothingCarriedBetweenCommands :
    (offered 0x040000).pc = .idle ∧
      runSteps 2 { offered 0x040000 with answers := [.err TErr.first] } =
        .next { State.reset with
          cmd := 0x040000, err := 2, terr := TErr.first, done := true
          trace := [⟨.start 0x60, .err TErr.first⟩] } ∧
      ({ offered 0x040000 with
          acc := 1, rb := 1, res := 1, cmd := 1, busy := false, done := true, ok := true, err := 1
          terr := TErr.first } : State) =
        { offered 0x040000 with
          acc := 1, rb := 1, res := 1, cmd := 1, busy := false, done := true, ok := true, err := 1
          terr := TErr.first } :=
  ⟨rfl, rfl, rfl⟩

end Sys2Proof.Tests
end

section
/-!
Proofs about the state (spec 10_state.md). First the small lemmas on `pc` and `BUSY` that Laws/ does
not have, then the proof that `BUSY = 1` if and only if `pc ≠ IDLE` (R25).
-/
namespace Sys2Proof.Proofs

open Sys2Proof.Machine Sys2Proof.Laws

/-! ## What host moves do to `pc` and `BUSY`, and the steps a run goes on with -/

@[simp] theorem hostMove_pc (m : HostMove) (s : State) : (m.apply s).pc = s.pc := by
  cases m <;> rfl

@[simp] theorem hostMove_busy (m : HostMove) (s : State) : (m.apply s).busy = s.busy := by
  cases m <;> rfl

@[simp] theorem firstPc_ne_idle (i : Instr) : firstPc i ≠ .idle := by
  cases i <;> nofun

/-- The step after a call that has returned `ok` is one of the same command, never `IDLE` (R20). -/
theorem nextPc_ne_idle {s : State} {c : Call} (hc : s.nextCall = some c) : nextPc s.pc ≠ .idle :=
  (call_facts hc).running_on

/-! ## `BUSY` and `pc` -/

/-- `BUSY = 1` if and only if `pc ≠ IDLE` (R25). -/
def BusyIffRunning (s : State) : Prop := s.busy = true ↔ s.pc ≠ .idle

theorem busyIffRunning_of_idle {s : State} (hb : s.busy = false) (hp : s.pc = .idle) :
    BusyIffRunning s := by
  simp [BusyIffRunning, hb, hp]

theorem busyIffRunning_of_running {s : State} (hb : s.busy = true) (hp : s.pc ≠ .idle) :
    BusyIffRunning s := by
  simp [BusyIffRunning, hb, hp]

/-- A change that keeps `BUSY` and `pc` keeps their equivalence. -/
theorem BusyIffRunning.of_same {s t : State} (h : BusyIffRunning s) (hb : t.busy = s.busy)
    (hp : t.pc = s.pc) : BusyIffRunning t := by
  rwa [BusyIffRunning, hb, hp]

/-- A running command's move to another of its steps, `BUSY` kept. -/
theorem BusyIffRunning.of_moves {s t : State} (h : BusyIffRunning s) (hs : s.pc ≠ .idle)
    (hb : t.busy = s.busy) (ht : t.pc ≠ .idle) : BusyIffRunning t :=
  busyIffRunning_of_running (hb.trans (h.2 hs)) ht

theorem busyIffRunning_of_initial {s : State} (h : s.Initial) : BusyIffRunning s := by
  obtain ⟨-, acc, rb, res, cmd, terr, draws, hs⟩ := h
  rw [hs]
  exact busyIffRunning_of_idle rfl rfl

/-- The two tests (INIT.5, POLL.4) and CONVERT go on in the run or raise; the last steps end it. -/
theorem BusyIffRunning.internal {s t : State} (h : BusyIffRunning s) (hs : s.pc ≠ .idle)
    (hi : Internal s t) : BusyIffRunning t := by
  cases hi with
  | check _ =>
    unfold initCheck
    split
    · exact h.of_moves hs rfl nofun
    · exact busyIffRunning_of_idle rfl rfl
  | test q _ =>
    unfold pollTest
    split
    · exact h.of_moves hs rfl (measPc_ne_idle q _)
    · exact h.of_moves hs rfl (measPc_ne_idle q _)
  | convert q _ => exact h.of_moves hs rfl (measPc_ne_idle q _)
  | initFinish _ => exact busyIffRunning_of_idle rfl rfl
  | measFinish _ _ => exact busyIffRunning_of_idle rfl rfl
  | rdregFinish _ => exact busyIffRunning_of_idle rfl rfl
  | wrregFinish _ => exact busyIffRunning_of_idle rfl rfl

/-- Acceptance begins a run, a call that waits keeps `pc`, one that returns moves it within the run,
and reset, a reserved word and a bus error lead to `IDLE`, each with `BUSY` as it must be. -/
theorem BusyIffRunning.step {s t : State} (h : BusyIffRunning s)
    (e : Machine.step s = .next t) : BusyIffRunning t := by
  cases step_cases e with
  | reset _ => exact busyIffRunning_of_idle (applyReset_busy s) (applyReset_pc s)
  | idles _ _ _ => exact h
  | accepts _ _ w ws _ i _ => exact busyIffRunning_of_running rfl (firstPc_ne_idle i)
  | refuses _ _ w ws _ x _ => exact busyIffRunning_of_idle rfl rfl
  | waits _ c _ _ as d => exact h.of_same rfl rfl
  | fails _ c _ _ as d x => exact busyIffRunning_of_idle rfl rfl
  | returns _ c hc _ as d bs => exact h.of_moves (call_ne_idle hc) rfl (nextPc_ne_idle hc)
  | sleeps _ q _ _ ws d => exact h.of_same rfl rfl
  | wakes _ q _ hc ws d => exact h.of_moves (call_ne_idle hc) rfl (nextPc_ne_idle hc)
  | internal _ hp _ hi => exact h.internal hp hi

theorem BusyIffRunning.hostMove {s : State} (h : BusyIffRunning s) (m : HostMove) :
    BusyIffRunning (m.apply s) :=
  h.of_same (hostMove_busy m s) (hostMove_pc m s)

/-- Settles O19, by induction on how the state is reached: `BUSY` is 0 at `IDLE` after reset, and
every step and every host move keeps the equivalence. -/
theorem busyExactlyWhileRunning : Obligations.BusyExactlyWhileRunning := by
  intro s hs
  change BusyIffRunning s
  induction hs with
  | initial h => exact busyIffRunning_of_initial h
  | step _ e ih => exact ih.step e
  | host _ m ih => exact ih.hostMove m

end Sys2Proof.Proofs
end

section
/-!
Proofs about the encoding (spec 30_encoding.md). First that the decoder reads an instruction from
exactly that instruction's word (R80 to R83), then that the opcode map's rows, by match and mask, say
the same as the decoder (R85).
-/
namespace Sys2Proof.Proofs

open Sys2Proof.Laws

/-! ## The decoder and the encoder -/

theorem cmdWord_eq_of_fields {w : CmdWord} {o a d : Byte} (ho : cmdOp w = o) (ha : cmdA w = a)
    (hd : cmdD w = d) : cmdWord o a d = w :=
  ((eq_cmdWord_iff w o a d).2 ⟨ho, ha, hd⟩).symm

/-- Format Z: `a` and `d` are 0x00 in every word that decodes (R81). -/
theorem decodeZ_eq_ok {i j : Instr} {w : CmdWord} :
    decodeZ i w = .ok j ↔ (cmdA w = 0 ∧ cmdD w = 0) ∧ i = j := by
  unfold decodeZ
  split
  · simp [*]
  · exact ⟨nofun, fun h => absurd h.1 ‹_›⟩

/-- Format A: `d` is 0x00 in every word that decodes (R82). -/
theorem decodeA_eq_ok {i : Byte → Instr} {j : Instr} {w : CmdWord} :
    decodeA i w = .ok j ↔ cmdD w = 0 ∧ i (cmdA w) = j := by
  unfold decodeA
  split
  · simp [*]
  · exact ⟨nofun, fun h => absurd h.1 ‹_›⟩

@[simp] theorem decode_encode (i : Instr) : decode (encode i) = .ok i := by
  cases i <;> simp [encode, decode, decodeZ_eq_ok, decodeA_eq_ok]

/-- A word that decodes has the fields its instruction's word has: one case for each `op` of R85. -/
theorem encode_of_decode {w : CmdWord} {i : Instr} (h : decode w = .ok i) : encode i = w := by
  unfold decode at h
  split_ifs at h with h1 h2 h3 h4 h10 h11
  · obtain ⟨⟨ha, hd⟩, rfl⟩ := decodeZ_eq_ok.1 h
    exact cmdWord_eq_of_fields h1 ha hd
  · obtain ⟨⟨ha, hd⟩, rfl⟩ := decodeZ_eq_ok.1 h
    exact cmdWord_eq_of_fields h2 ha hd
  · obtain ⟨⟨ha, hd⟩, rfl⟩ := decodeZ_eq_ok.1 h
    exact cmdWord_eq_of_fields h3 ha hd
  · obtain ⟨⟨ha, hd⟩, rfl⟩ := decodeZ_eq_ok.1 h
    exact cmdWord_eq_of_fields h4 ha hd
  · obtain ⟨hd, rfl⟩ := decodeA_eq_ok.1 h
    exact cmdWord_eq_of_fields h10 rfl hd
  · cases h
    exact cmdWord_eq_of_fields h11 rfl rfl

theorem decode_eq_ok_iff {w : CmdWord} {i : Instr} : decode w = .ok i ↔ encode i = w :=
  ⟨encode_of_decode, fun h => h ▸ decode_encode i⟩

/-! ## The rows of the opcode map -/

theorem opcodeMap_mnemonic_injective :
    ∀ r ∈ opcodeMap, ∀ r' ∈ opcodeMap, r.mnemonic = r'.mnemonic → r = r' := by decide

theorem encodedWordLegal (i : Instr) : EncodedWordLegal.Statement i :=
  match i with
  | .init => EncodedWordLegal.init
  | .getp => EncodedWordLegal.getp
  | .geta => EncodedWordLegal.geta
  | .gett => EncodedWordLegal.gett
  | .rdreg a => EncodedWordLegal.rdreg a
  | .wrreg a d => EncodedWordLegal.wrreg a d

/-- The mask of each row fixes every field that is not an operand of the row's command. -/
theorem exists_encode_eq_of_selects {r : OpcodeRow} (hr : r ∈ opcodeMap) {w : CmdWord}
    (h : r.selects w = true) : ∃ i, encode i = w ∧ i.mnemonic = r.mnemonic := by
  simp only [opcodeMap, List.mem_cons, List.not_mem_nil, or_false] at hr
  obtain rfl | rfl | rfl | rfl | rfl | rfl := hr
  · obtain ⟨ho, ha, hd⟩ := (selects_z "INIT" 0x01 w).1 h
    exact ⟨.init, cmdWord_eq_of_fields ho ha hd, rfl⟩
  · obtain ⟨ho, ha, hd⟩ := (selects_z "GETP" 0x02 w).1 h
    exact ⟨.getp, cmdWord_eq_of_fields ho ha hd, rfl⟩
  · obtain ⟨ho, ha, hd⟩ := (selects_z "GETA" 0x03 w).1 h
    exact ⟨.geta, cmdWord_eq_of_fields ho ha hd, rfl⟩
  · obtain ⟨ho, ha, hd⟩ := (selects_z "GETT" 0x04 w).1 h
    exact ⟨.gett, cmdWord_eq_of_fields ho ha hd, rfl⟩
  · obtain ⟨ho, hd⟩ := (selects_a "RDREG" 0x10 w).1 h
    exact ⟨.rdreg (cmdA w), cmdWord_eq_of_fields ho rfl hd, rfl⟩
  · have ho := (selects_ad "WRREG" 0x11 w).1 h
    exact ⟨.wrreg (cmdA w) (cmdD w), cmdWord_eq_of_fields ho rfl rfl, rfl⟩

theorem exists_row_of_decode {w : CmdWord} {i : Instr} (h : decode w = .ok i) :
    ∃ r ∈ opcodeMap, r.mnemonic = i.mnemonic ∧ r.selects w = true :=
  encode_of_decode h ▸ (encodedWordLegal i).2

theorem selects_iff_decode {r : OpcodeRow} (hr : r ∈ opcodeMap) (w : CmdWord) :
    r.selects w = true ↔ ∃ i, decode w = .ok i ∧ i.mnemonic = r.mnemonic := by
  constructor
  · intro h
    obtain ⟨i, hi, hm⟩ := exists_encode_eq_of_selects hr h
    exact ⟨i, decode_eq_ok_iff.2 hi, hm⟩
  · rintro ⟨i, hi, hm⟩
    obtain ⟨r', hr', hm', hs⟩ := exists_row_of_decode hi
    exact opcodeMap_mnemonic_injective r' hr' r hr (hm'.trans hm) ▸ hs

/-- The decoder reads at most one instruction from a word, so its name decides the row. -/
theorem opcodeMap_rows_disjoint {r r' : OpcodeRow} (hr : r ∈ opcodeMap) (hr' : r' ∈ opcodeMap)
    {w : CmdWord} (h : r.selects w = true) (h' : r'.selects w = true) : r = r' := by
  obtain ⟨i, hi, hm⟩ := (selects_iff_decode hr w).1 h
  obtain ⟨j, hj, hm'⟩ := (selects_iff_decode hr' w).1 h'
  cases hi.symm.trans hj
  exact opcodeMap_mnemonic_injective r hr r' hr' (hm.symm.trans hm')

theorem unselected_iff_decode_error (w : CmdWord) :
    (∀ r ∈ opcodeMap, r.selects w = false) ↔ ∃ x, decode w = .error x := by
  cases hd : decode w with
  | ok i =>
    obtain ⟨r, hr, -, hs⟩ := exists_row_of_decode hd
    have : ¬ ∀ r ∈ opcodeMap, r.selects w = false := fun h => by simp [h r hr] at hs
    exact ⟨fun h => absurd h this, nofun⟩
  | error x =>
    have (r) (hr : r ∈ opcodeMap) : r.selects w = false := by
      simp [← Bool.not_eq_true, selects_iff_decode hr, hd]
    exact ⟨fun _ => ⟨x, rfl⟩, fun _ => this⟩

/-- Settles O4: rows and decoder are compared through the word of the instruction, `encode`. -/
theorem decodeFollowsOpcodeMap : Obligations.DecodeFollowsOpcodeMap :=
  ⟨rfl, fun _ _ _ => beq_iff_eq, fun w _ hr => selects_iff_decode hr w,
    fun _ _ _ hr hr' => opcodeMap_rows_disjoint hr hr', unselected_iff_decode_error⟩

end Sys2Proof.Proofs
end

section
/-!
Proofs about assembly and conversion (spec 43_conversion.md). First assembly and the padding shift as
numbers (R150, R151), then the sign extension of altitude and the magnitude taken from it (R153), then
the three fields and the value of a `fix2f` pattern (R156 to R158); the conversions' values follow.
-/
namespace Sys2Proof.Proofs

open Sys2Proof.Machine Sys2Proof.Laws

/-! ## Assembly (R150) -/

theorem toNat_append_eq_add {m n : Nat} (x : BitVec m) (y : BitVec n) :
    (x ++ y).toNat = x.toNat * 2 ^ n + y.toNat := by
  rw [BitVec.toNat_append, ← Nat.shiftLeft_add_eq_or_of_lt y.isLt, Nat.shiftLeft_eq]

theorem assemble_two_toNat (b0 b1 : Byte) :
    (assemble [b0, b1]).toNat = b0.toNat * 256 + b1.toNat := by
  have h0 : (shiftIn 0 b0).toNat = b0.toNat := by simp [shiftIn_toNat]
  change (shiftIn (shiftIn 0 b0) b1).toNat = _
  rw [shiftIn_toNat _ _ (by omega), h0]

theorem assemble_three_toNat (b0 b1 b2 : Byte) :
    (assemble [b0, b1, b2]).toNat = b0.toNat * 65536 + b1.toNat * 256 + b2.toNat := by
  have h := assemble_two_toNat b0 b1
  change (shiftIn (assemble [b0, b1]) b2).toNat = _
  rw [shiftIn_toNat _ _ (by omega), h]
  ring

/-- `{0x0000, b0, b1}` (R150). -/
theorem assemble_two (b0 b1 : Byte) : assemble [b0, b1] = 0x0000#16 ++ b0 ++ b1 := by
  apply BitVec.eq_of_toNat_eq
  simp only [assemble_two_toNat, toNat_append_eq_add, BitVec.toNat_ofNat]
  ring

/-- `{0x00, b0, b1, b2}` (R150). -/
theorem assemble_three (b0 b1 b2 : Byte) : assemble [b0, b1, b2] = 0x00#8 ++ b0 ++ b1 ++ b2 := by
  apply BitVec.eq_of_toNat_eq
  simp only [assemble_three_toNat, toNat_append_eq_add, BitVec.toNat_ofNat]
  ring

/-- The bytes of a 24-bit value are its digits in base 256, the most significant first. -/
theorem assemble_bytes (r : BitVec 24) :
    assemble [r.extractLsb' 16 8, r.extractLsb' 8 8, r.extractLsb' 0 8] = r.setWidth 32 := by
  apply BitVec.eq_of_toNat_eq
  simp only [assemble_three_toNat, BitVec.extractLsb'_toNat, BitVec.toNat_setWidth,
    Nat.shiftRight_eq_div_pow]
  omega

/-- Settles O50: an assembled value is compared with a concatenation as a number. -/
theorem assemblyIsMsbFirst : Obligations.AssemblyIsMsbFirst :=
  ⟨fun _ => rfl, fun b0 b1 b2 => ⟨assemble_three b0 b1 b2, assemble_three_toNat b0 b1 b2⟩,
    fun b0 b1 => ⟨assemble_two b0 b1, assemble_two_toNat b0 b1⟩, assemble_bytes⟩

/-! ## The padding shift (R151) -/

theorem padShift_toNat (acc : Word) : (padShift acc).toNat = acc.toNat / 16 := by
  simp [padShift, padBits, Nat.shiftRight_eq_div_pow]

theorem shifted20_toNat_of_lt {acc : Word} (h : acc.toNat < 2 ^ 24) :
    (shifted20 acc).toNat = acc.toNat / 16 := by
  rw [shifted20_toNat]
  omega

theorem shifted20_congr {acc acc' : Word} (h : acc.toNat / 16 = acc'.toNat / 16) :
    shifted20 acc = shifted20 acc' := by
  apply BitVec.eq_of_toNat_eq
  rw [shifted20_toNat, shifted20_toNat, h]

theorem shifted12_congr {acc acc' : Word} (h : acc.toNat / 16 = acc'.toNat / 16) :
    shifted12 acc = shifted12 acc' := by
  apply BitVec.eq_of_toNat_eq
  rw [shifted12_toNat, shifted12_toNat]
  omega

/-- Settles O51: each conversion reads `ACC` only through the shifted value. -/
theorem paddingBitsAreDropped : Obligations.PaddingBitsAreDropped := by
  refine ⟨padShift_toNat, fun acc acc' h => ?_, fun acc h => shifted20_toNat_of_lt h,
    fun acc h => ?_⟩
  · simp only [convertPressure, convertAltitude, convertTemperature, shifted20_congr h,
      shifted12_congr h, and_self]
  · rw [shifted12_toNat, Nat.mod_eq_of_lt h]

/-! ## Sign extension and magnitude (R153) -/

/-- `SEXT_MASK_A` has exactly the bits above the 20 of `V`. -/
theorem sextMaskA_getLsbD : ∀ i < 32, sextMaskA.getLsbD i = decide (20 ≤ i) := by decide

theorem signExtendA_eq_signExtend (v : BitVec 20) : signExtendA v = v.signExtend 32 := by
  have hmsb : v.getLsbD signBitA = v.msb := rfl
  rw [signExtendA, hmsb]
  cases hs : v.msb
  case false => exact (BitVec.signExtend_eq_setWidth_of_msb_false hs).symm
  case true =>
    apply BitVec.eq_of_getLsbD_eq
    intro i hi
    simp only [if_true, BitVec.getLsbD_or, BitVec.getLsbD_setWidth, BitVec.getLsbD_signExtend,
      sextMaskA_getLsbD i hi, hs, hi, decide_true, Bool.true_and]
    by_cases h20 : i < 20
    · simp [h20]
    · simp [h20, not_lt.1 h20]

theorem signExtendA_toInt (v : BitVec 20) : (signExtendA v).toInt = v.toInt := by
  rw [signExtendA_eq_signExtend, BitVec.toInt_signExtend_of_le (by decide)]

theorem signExtendA_toInt_bounds (v : BitVec 20) :
    -2 ^ 19 ≤ (signExtendA v).toInt ∧ (signExtendA v).toInt < 2 ^ 19 := by
  rw [signExtendA_toInt]
  exact ⟨v.le_toInt, v.toInt_lt⟩

/-- Settles O52: the OR writes the sign bit into every bit above it, which keeps the signed value. -/
theorem altitudeSignExtension : Obligations.AltitudeSignExtension := by
  refine ⟨fun v => ?_, by decide, by decide, by decide⟩
  obtain ⟨hl, hu⟩ := signExtendA_toInt_bounds v
  have hs : signExtendA v = signExtend (v.setWidth 32) 20 := by
    rw [signExtendA_eq_signExtend, signExtend, BitVec.setWidth_setWidth_of_le _ (by decide),
      BitVec.setWidth_eq]
  exact ⟨rfl, signExtendA_eq_signExtend v, hs, by omega, by omega⟩

/-- Sign and magnitude stand for the number they are taken from: 20 bits hold every `|S|`. -/
theorem sign_mul_magnitude (w : Word) (hl : -2 ^ 19 ≤ w.toInt) (hu : w.toInt < 2 ^ 19) :
    (if w.msb then -1 else 1) * ((magnitude w).toNat : ℤ) = w.toInt := by
  cases hw : w.msb
  case false =>
    have hi := BitVec.toInt_eq_toNat_of_msb hw
    have hm : (magnitude w).toNat = w.toNat := by
      simp only [magnitude, hw, Bool.false_eq_true, if_false, BitVec.toNat_setWidth]
      omega
    simp [hm, hi]
  case true =>
    have hi := BitVec.toInt_eq_neg_toNat_neg_of_msb_true hw
    have hm : (magnitude w).toNat = (-w).toNat := by
      simp only [magnitude, hw, if_true, BitVec.toNat_setWidth]
      omega
    simp only [hm, hi, if_true, neg_one_mul]

/-! ## The fields of a pattern (R156, R157) -/

theorem expField_eq (x : Word) : expField x = x.toNat / 2 ^ 23 % 2 ^ 8 := by
  rw [expField, BitVec.extractLsb'_toNat, Nat.shiftRight_eq_div_pow]

theorem fracField_eq (x : Word) : fracField x = x.toNat % 2 ^ 23 := by
  rw [fracField, BitVec.extractLsb'_toNat, Nat.shiftRight_zero]

theorem signBit_eq (x : Word) : x.getLsbD 31 = decide (2 ^ 31 ≤ x.toNat) :=
  BitVec.msb_eq_decide x

theorem fix2f_zero (sign : Bool) (f : Nat) : fix2f sign 0 f = 0 := rfl

theorem expField_fix2f (sign : Bool) {m : BitVec 20} {f : Nat} (h : m ≠ 0) (hf : f ≤ 4) :
    expField (fix2f sign m f) = 127 + topBit m - f := by
  have hk := (topBit_spec m h).1
  obtain ⟨hl, hu⟩ := aligned_bounds m h
  have hs := sign.toNat_lt
  rw [expField_eq, fix2f_toNat sign m f h hf]
  omega

/-- The fraction field is `M` left-aligned, without its leading 1. -/
theorem fracField_fix2f (sign : Bool) {m : BitVec 20} {f : Nat} (h : m ≠ 0) (hf : f ≤ 4) :
    2 ^ 23 + fracField (fix2f sign m f) = m.toNat * 2 ^ (23 - topBit m) := by
  obtain ⟨hl, hu⟩ := aligned_bounds m h
  rw [fracField_eq, fix2f_toNat sign m f h hf]
  omega

theorem signBit_fix2f (sign : Bool) {m : BitVec 20} {f : Nat} (h : m ≠ 0) (hf : f ≤ 4) :
    (fix2f sign m f).getLsbD 31 = sign := by
  have hk := (topBit_spec m h).1
  obtain ⟨hl, hu⟩ := aligned_bounds m h
  rw [signBit_eq, fix2f_toNat sign m f h hf]
  cases sign
  · simp only [Bool.toNat_false, decide_eq_false_iff_not]
    omega
  · simp only [Bool.toNat_true, decide_eq_true_eq]
    omega

theorem fix2f_eq_zero_or_normal (sign : Bool) (m : BitVec 20) {f : Nat} (hf : f = 2 ∨ f = 4) :
    fix2f sign m f = 0 ∨
      (123 ≤ expField (fix2f sign m f) ∧ expField (fix2f sign m f) ≤ 144) := by
  by_cases h : m = 0
  · exact .inl (h ▸ fix2f_zero sign f)
  · have hk := (topBit_spec m h).1
    rw [expField_fix2f sign h (by omega)]
    omega

theorem convert_eq_zero_or_normal (q : Quantity) (acc : Word) :
    convert q acc = 0 ∨ (123 ≤ expField (convert q acc) ∧ expField (convert q acc) ≤ 144) :=
  match q with
  | .pressure => fix2f_eq_zero_or_normal _ _ (.inl rfl)
  | .altitude => fix2f_eq_zero_or_normal _ _ (.inr rfl)
  | .temperature => fix2f_eq_zero_or_normal _ _ (.inr rfl)

/-- Settles O57: of the three fields of `fix2f sign m f`, only the exponent's depends on `f`. -/
theorem divisionsExactResultsNormal : Obligations.DivisionsExactResultsNormal := by
  refine ⟨fun sign m f hf hm => ?_, convert_eq_zero_or_normal⟩
  have hf : f ≤ 4 := by omega
  refine ⟨?_, ?_, ?_⟩
  · rw [expField_fix2f sign hm hf, expField_fix2f sign hm (by omega)]
    omega
  · have h := fracField_fix2f sign hm hf
    have h0 := fracField_fix2f sign hm (Nat.zero_le 4)
    omega
  · rw [signBit_fix2f sign hm hf, signBit_fix2f sign hm (by omega)]

/-! ## The value of a pattern (R156, R158) -/

/-- Aligning left by `23 - k` and the exponent `127 + k - f`, less the bias and the 23 fraction bits,
leave the division by `2 ^ f`. -/
theorem aligned_mul_zpow (m : ℚ) {k f : Nat} (hk : k ≤ 19) (hf : f ≤ 4) :
    m * 2 ^ (23 - k) * 2 ^ (((127 + k - f : ℕ) : ℤ) - 150) = m / 2 ^ f := by
  have he : ((23 - k : ℕ) : ℤ) + (((127 + k - f : ℕ) : ℤ) - 150) = -(f : ℤ) := by omega
  rw [mul_assoc, ← zpow_natCast 2 (23 - k), ← zpow_add₀ two_ne_zero, he, zpow_neg, zpow_natCast,
    div_eq_mul_inv]

/-- `fix2f(sign, M, F)` is `± M / 2^F` exactly. -/
theorem f32Value_fix2f (sign : Bool) (m : BitVec 20) {f : Nat} (hf : f ≤ 4) :
    f32Value (fix2f sign m f) = (if sign then -1 else 1) * ((m.toNat : ℚ) / 2 ^ f) := by
  by_cases h : m = 0
  · rw [h, fix2f_zero]
    simp [f32Value, expField_eq, fracField_eq]
  · have hk := (topBit_spec m h).1
    have he : expField (fix2f sign m f) ≠ 0 := by
      rw [expField_fix2f sign h hf]
      omega
    rw [f32Value, if_neg he, signBit_fix2f sign h hf, fracField_fix2f sign h hf,
      expField_fix2f sign h hf, Nat.cast_mul, Nat.cast_pow, Nat.cast_ofNat,
      aligned_mul_zpow _ hk hf]

/-! ## The three conversions -/

/-- Pressure (R152). -/
theorem f32Value_convertPressure {r : Word} (h : r.toNat < 2 ^ 24) :
    f32Value (convertPressure r) = ((r.toNat / 16 : ℕ) : ℚ) / 4 := by
  rw [convertPressure, f32Value_fix2f _ _ (by decide), shifted20_toNat_of_lt h]
  norm_num [fracP]

/-- Altitude, as the signed number `S` (R154). -/
theorem f32Value_convertAltitude (r : Word) :
    f32Value (convertAltitude r) = ((shifted20 r).toInt : ℚ) / 16 := by
  obtain ⟨hl, hu⟩ := signExtendA_toInt_bounds (shifted20 r)
  rw [convertAltitude, f32Value_fix2f _ _ (by decide), ← signExtendA_toInt,
    ← sign_mul_magnitude _ hl hu]
  have h16 : (2 : ℚ) ^ fracA = 16 := by norm_num [fracA]
  rw [h16, ← mul_div_assoc, Int.cast_mul, Int.cast_ite, Int.cast_neg, Int.cast_one,
    Int.cast_natCast]

/-- Temperature (R155). -/
theorem f32Value_convertTemperature (acc : Word) :
    f32Value (convertTemperature acc) = ((acc.toNat % 2 ^ 16 / 16 : ℕ) : ℚ) / 16 := by
  have h : ((shifted12 acc).setWidth 20).toNat = acc.toNat % 2 ^ 16 / 16 := by
    rw [BitVec.toNat_setWidth, shifted12_toNat]
    omega
  rw [convertTemperature, f32Value_fix2f _ _ (by decide), h]
  norm_num [fracT]

/-- `S` is `V` below 2^19 and `V - 2^20` from there on (R154). -/
theorem shifted20_toInt_of_lt {r : Word} (h : r.toNat < 2 ^ 24) :
    (shifted20 r).toInt =
      ((r.toNat / 16 : ℕ) : ℤ) - if r.toNat / 16 < 2 ^ 19 then 0 else 2 ^ 20 := by
  rw [BitVec.toInt_eq_toNat_cond, shifted20_toNat_of_lt h]
  split_ifs <;> omega

/-- Settles O53: the value is a quotient of `r / 16`, which 20 bits bound and which grows with `r`. -/
theorem pressureConversionExact : Obligations.PressureConversionExact := by
  refine ⟨fun r h => ?_, fun r r' hle h => ?_, by decide, by decide, by decide, by decide,
    by decide, by decide⟩
  · have hn : r.toNat / 16 ≤ 1048575 := by omega
    have hb : ((r.toNat / 16 : ℕ) : ℚ) ≤ 1048575 := by exact_mod_cast hn
    rw [f32Value_convertPressure h]
    exact ⟨rfl, by positivity, by linarith⟩
  · have hd : ((r.toNat / 16 : ℕ) : ℚ) ≤ (r'.toNat / 16 : ℕ) := by
      exact_mod_cast Nat.div_le_div_right hle
    rw [f32Value_convertPressure h, f32Value_convertPressure (by omega)]
    linarith

/-- Settles O54: the value is `S / 16` with `S` the 20-bit two's-complement reading of `V`. -/
theorem altitudeConversionExact : Obligations.AltitudeConversionExact := by
  refine ⟨fun r h => ?_, by decide, by decide, by decide, by decide, by decide, by decide⟩
  have hl : (-524288 : ℚ) ≤ (shifted20 r).toInt := by exact_mod_cast (shifted20 r).le_toInt
  have hu : ((shifted20 r).toInt : ℚ) ≤ 524287 := by
    exact_mod_cast Int.le_of_lt_add_one (shifted20 r).toInt_lt
  rw [f32Value_convertAltitude]
  refine ⟨?_, by linarith, by linarith⟩
  rw [shifted20_toInt_of_lt h, Int.cast_sub, Int.cast_natCast, Int.cast_ite, Int.cast_zero,
    Int.cast_pow, Int.cast_ofNat]

/-- Settles O55: the value is a quotient of the 12 bits of `V`, no sign taken from any of them. -/
theorem temperatureConversionUnsigned : Obligations.TemperatureConversionUnsigned := by
  refine ⟨fun acc => ?_, by decide, by decide, by decide, by decide, by decide⟩
  have hn : acc.toNat % 2 ^ 16 / 16 ≤ 4095 := by omega
  have hb : ((acc.toNat % 2 ^ 16 / 16 : ℕ) : ℚ) ≤ 4095 := by exact_mod_cast hn
  rw [f32Value_convertTemperature]
  exact ⟨rfl, by positivity, by linarith⟩

end Sys2Proof.Proofs
end

section
/-!
Proofs about the exceptions (spec 60_exceptions.md). What a step has done before its call, then how a
bus error ends the run (R172).
-/
namespace Sys2Proof.Proofs

open Sys2Proof.Machine Sys2Proof.Laws

/-- Before its call a step changes `ACC` alone, and only at READ.0, which clears it (R133). -/
theorem beforeCall_eq (s : State) :
    beforeCall s =
      { s with acc := if s.pc.measuring.map Prod.snd = some (.read .one) then 0 else s.acc } := by
  simp only [beforeCall, clears_iff]

/-- A call that returns `err(e)` raises `BusError(e)` in place of what its step does on `ok` (R105). -/
theorem step_busError {s : State} {c : Call} {e : TErr} {as : List Answer} (hu : s.Undisturbed)
    (hc : s.nextCall = some c) (hn : ∀ ms, c ≠ .sleep ms) (ha : s.answers = .err e :: as) :
    step s =
      .next (raise (.busError e) (record c (.err e) { beforeCall s with answers := as })) := by
  have ha' : (beforeCall s).answers = .err e :: as := ha
  rw [step_call hu hc hn, call_err c _ ha']

/-- Settles O23: the step raises `BusError(e)`, whose entry writes `ERR`, `TERR`, `BUSY`, `DONE` and
`pc`; the record of the failed call writes the trace, and READ.0 has cleared `ACC`. -/
theorem busErrorEndsTheRun : Obligations.BusErrorEndsTheRun := by
  intro s c e as hu hc hn ha
  rw [step_busError hu hc hn ha, beforeCall_eq]
  rfl

end Sys2Proof.Proofs
end

section
/-!
Proofs about the encoding, continued (spec 30_encoding.md): decoder and encoder undo each other (R80
to R85), and which words are reserved (R86).
-/
namespace Sys2Proof.Proofs

open Sys2Proof.Machine Sys2Proof.Laws

/-- Settles O2: `decode_encode`, which needs no well-formedness: every operand byte is legal. -/
theorem decodeOfEncode : Obligations.DecodeOfEncode := fun i _ => decode_encode i

/-- Settles O3. -/
theorem encodeOfDecode : Obligations.EncodeOfDecode := fun _ _ => encode_of_decode

/-- Settles O1: eleven fixed words, evaluated. -/
theorem sampleWordsDecode : Obligations.SampleWordsDecode := by
  unfold Obligations.SampleWordsDecode
  decide

/-! ## Reserved words (R86) -/

theorem decodeZ_eq_error {i : Instr} {w : CmdWord} {x : Reserved} :
    decodeZ i w = .error x ↔ x = .formatZOperand ∧ (cmdA w ≠ 0 ∨ cmdD w ≠ 0) := by
  unfold decodeZ
  split
  case isTrue h => simp [h]
  case isFalse h => simp only [Except.error.injEq, @eq_comm _ x, ne_eq, not_and_or.1 h, and_true]

theorem decodeA_eq_error {i : Byte → Instr} {w : CmdWord} {x : Reserved} :
    decodeA i w = .error x ↔ x = .formatAData ∧ cmdD w ≠ 0 := by
  unfold decodeA
  split
  case isTrue h => simp [h]
  case isFalse h =>
    simp only [Except.error.injEq, @eq_comm _ x, ne_eq, h, not_false_eq_true, and_true]

/-- The decoder's rejections, by kind: the operation code decides first, then the operands. -/
theorem decode_eq_error_iff (w : CmdWord) (x : Reserved) :
    decode w = .error x ↔
      (x = .opcode ∧ opFormat (cmdOp w) = none) ∨
      (x = .formatZOperand ∧ opFormat (cmdOp w) = some .z ∧ (cmdA w ≠ 0 ∨ cmdD w ≠ 0)) ∨
      (x = .formatAData ∧ opFormat (cmdOp w) = some .a ∧ cmdD w ≠ 0) := by
  unfold decode
  split_ifs with h1 h2 h3 h4 h10 h11
  · simp [decodeZ_eq_error, opFormat, h1]
  · simp [decodeZ_eq_error, opFormat, h2]
  · simp [decodeZ_eq_error, opFormat, h3]
  · simp [decodeZ_eq_error, opFormat, h4]
  · simp [decodeA_eq_error, opFormat, h10]
  · simp [opFormat, h11]
  · have h : opFormat (cmdOp w) = none := by
      simp only [opFormat, h1, h2, h3, h4, h10, h11, or_self, if_false]
    simp [h, @eq_comm _ x]

theorem opFormat_eq_z (op : Byte) : opFormat op = some .z ↔ 1 ≤ op.toNat ∧ op.toNat ≤ 4 := by
  revert op
  decide

theorem opFormat_eq_a (op : Byte) : opFormat op = some .a ↔ op = 0x10 := by
  revert op
  decide

theorem opFormat_eq_none (op : Byte) :
    opFormat op = none ↔
      op = 0 ∨ (5 ≤ op.toNat ∧ op.toNat ≤ 0x0F) ∨ 0x12 ≤ op.toNat := by
  revert op
  decide

/-- The formats' check and the decoder read the same table (R81 to R83). -/
theorem wordWellFormed_iff_decode_ok (w : CmdWord) :
    wordWellFormed w = true ↔ ∃ i, decode w = .ok i := by
  have herr : (∃ i, decode w = .ok i) ↔ ∀ x, decode w ≠ .error x := by
    cases decode w <;> simp
  rw [herr]
  simp only [ne_eq, decode_eq_error_iff, wordWellFormed]
  split <;> simp [*, ← imp_iff_not_or]

/-- Settles O5: each kind of rejection is one of `decode_eq_error_iff`, and `opFormat` says which
operation codes it belongs to. -/
theorem reservedWordsClassified : Obligations.ReservedWordsClassified := by
  intro w
  refine ⟨?_, ?_, ?_, wordWellFormed_iff_decode_ok w⟩
  · simp [decode_eq_error_iff, opFormat_eq_none]
  · simp [decode_eq_error_iff, opFormat_eq_z]
  · simp [decode_eq_error_iff, opFormat_eq_a]

end Sys2Proof.Proofs
end

section
/-!
What a step does, continued (spec 10_state.md R20; 60_exceptions.md R176): the steps without a call,
one by one and as steps of the machine.
-/
namespace Sys2Proof.Proofs

open Sys2Proof.Machine Sys2Proof.Laws

/-! ## The steps without a call -/

/-- What a step without a call does: it goes on in the run, converts, raises or ends the run. -/
inductive InternalCase (s : State) : State → Prop where
  | identified (h : s.pc = .init .check) (hr : s.rb = idExpected) :
      InternalCase s { s with pc := .init (.ctrlWrite .one) }
  | unknownDevice (h : s.pc = .init .check) (hr : s.rb ≠ idExpected) :
      InternalCase s (raise .deviceNotFound s)
  | ready (q : Quantity) (h : s.pc = measPc q .test)
      (hr : readySet s.rb (readyMask q s.params) = true) :
      InternalCase s { s with pc := measPc q (.read .one) }
  | notReady (q : Quantity) (h : s.pc = measPc q .test)
      (hr : readySet s.rb (readyMask q s.params) = false) :
      InternalCase s { s with pc := measPc q .sleep }
  | converts (q : Quantity) (h : s.pc = measPc q .convert) :
      InternalCase s { s with res := convert q s.acc, pc := measPc q .done }
  | ends (h : s.pc = .rdreg .finish ∨ s.pc = .wrreg .finish ∨ ∃ q, s.pc = measPc q .done) :
      InternalCase s (finish s)
  | initEnds (h : s.pc = .init .finish) : InternalCase s { finish s with ok := true }

theorem internal_cases {s t : State} (h : Internal s t) : InternalCase s t := by
  cases h with
  | check h =>
    unfold initCheck
    split
    case isTrue hr => exact .identified h (beq_iff_eq.1 hr)
    case isFalse hr => exact .unknownDevice h fun he => hr (beq_iff_eq.2 he)
  | test q h =>
    unfold pollTest
    split
    case isTrue hr => exact .ready q h hr
    case isFalse hr => exact .notReady q h (Bool.eq_false_iff.2 hr)
  | convert q h => exact .converts q h
  | measFinish q h => exact .ends (.inr (.inr ⟨q, h⟩))
  | rdregFinish h => exact .ends (.inl h)
  | wrregFinish h => exact .ends (.inr (.inl h))
  | initFinish h => exact .initEnds h

theorem internal_nextCall {s t : State} (h : Internal s t) : s.nextCall = none := by
  cases h with
  | test q h | convert q h | measFinish q h => rw [State.nextCall, h, measPc_call]; rfl
  | check h | initFinish h | rdregFinish h | wrregFinish h => rw [State.nextCall, h]; rfl

theorem initCheck_of_match {s : State} (h : s.rb = idExpected) :
    initCheck s = { s with pc := .init (.ctrlWrite .one) } :=
  if_pos (beq_iff_eq.2 h)

theorem initCheck_of_mismatch {s : State} (h : s.rb ≠ idExpected) :
    initCheck s = raise .deviceNotFound s :=
  if_neg fun he => h (beq_iff_eq.1 he)

/-! ## A running command's step -/

/-- A step without a call as a step of the machine: the converse of its case of `step_cases`. -/
theorem step_internal {s t : State} (hu : s.Undisturbed) (h : Internal s t) : step s = .next t := by
  cases h with
  | check h => rw [step_running (i := .init) hu (by rw [h]; rfl), exec, execInit, h]; rfl
  | initFinish h => rw [step_running (i := .init) hu (by rw [h]; rfl), exec, execInit, h]; rfl
  | test q h => exact step_meas hu h
  | convert q h => exact step_meas hu h
  | measFinish q h => exact step_meas hu h
  | rdregFinish h =>
    rw [step_running (i := .rdreg (cmdA s.cmd)) hu (by rw [h]; rfl), exec, execRdreg, h]
  | wrregFinish h =>
    rw [step_running (i := .wrreg (cmdA s.cmd) (cmdD s.cmd)) hu (by rw [h]; rfl), exec, execWrreg,
      h]

end Sys2Proof.Proofs
end

section
/-!
Proofs about the invariant of SFEC (spec 10_state.md sections 2, 3 and 5). First what the tables say
of a run's first step and of a step's call; then the ways to a next state, into `IDLE`, to the first
step of a command, and on within a run; then that every step keeps the invariant.
-/
namespace Sys2Proof.Proofs

open Sys2Proof.Machine Sys2Proof.Laws

/-! ## The first step of a command -/

@[simp] theorem firstPc_running (i : Instr) : (firstPc i).running (encode i) = some i := by
  cases i <;> simp [firstPc, Pc.running, encode]

@[simp] theorem firstPc_opens (i : Instr) : (firstPc i).opens = true := by
  cases i <;> rfl

theorem firstPc_measuring {i : Instr} {q : Quantity} {m : MeasStep}
    (h : (firstPc i).measuring = some (q, m)) : m = .poll .one := by
  cases i <;> simp_all [firstPc, Pc.measuring]

theorem firstPc_init {i : Instr} {st : InitStep} (h : firstPc i = .init st) :
    i = .init ∧ st = .begin := by
  cases i <;> simp_all [firstPc]

theorem running_eq_init {p : Pc} {w : CmdWord} : p.running w = some .init ↔ ∃ st, p = .init st := by
  cases p <;> simp [Pc.running]

/-! ## The call in progress and the trace -/

theorem measuring_nextCall {s : State} {q : Quantity} {m : MeasStep}
    (h : s.pc.measuring = some (q, m)) : s.nextCall = measCall q m := by
  rw [State.nextCall, measuring_eq_some.1 h, measPc_call]

/-- A call in progress is one its step makes; with none to make there is none in progress. -/
theorem inFlight_eq_none {s : State} (h : Invariant s) (hc : s.nextCall = none) :
    s.inFlight = none := by
  cases hf : s.inFlight with
  | none => rfl
  | some c => exact absurd (hc.symm.trans (h.in_flight c hf)) nofun

/-- The call of the step stands where the trace's shapes have it; an `ok` answer brings the phase of
the next step (R89). -/
theorem tracePhase_call {s : State} {c : Call} (h : Invariant s) (hc : s.nextCall = some c) :
    ∃ p, tracePhase s.trace = some p ∧ p.afterCall c = some (nextPc s.pc).phase := by
  obtain ⟨p, hp, hpc⟩ := h.trace_phase
  exact ⟨p, hp, (call_facts hc).phase p hpc⟩

theorem tracePhase_ok {s : State} {c : Call} (h : Invariant s) (hc : s.nextCall = some c)
    (bs : List Byte) : tracePhase (s.trace ++ [⟨c, .ok bs⟩]) = some (nextPc s.pc).phase := by
  obtain ⟨p, hp, ha⟩ := tracePhase_call h hc
  exact (tracePhase_append _ hp).trans ha

theorem tracePhase_err {s : State} {c : Call} (h : Invariant s) (hc : s.nextCall = some c)
    (e : TErr) : ∃ p, tracePhase (s.trace ++ [⟨c, .err e⟩]) = some p := by
  obtain ⟨p, hp, ha⟩ := tracePhase_call h hc
  exact ⟨p, by simp [tracePhase_append _ hp, TxPhase.after, ha]⟩

/-- A call that a reset leaves unreturned is in place too (R190). -/
theorem tracePhase_abandon {s : State} (h : Invariant s) :
    ∃ p, tracePhase (abandon s).trace = some p := by
  unfold abandon
  split
  case h_1 c hf =>
    obtain ⟨p, hp, ha⟩ := tracePhase_call h (h.in_flight c hf)
    exact ⟨p, by simp [tracePhase_append _ hp, TxPhase.after, ha]⟩
  case h_2 =>
    obtain ⟨p, hp, -⟩ := h.trace_phase
    exact ⟨p, hp⟩

/-! ## Into `IDLE` -/

/-- At `IDLE` the invariant asks for the flags, for no call in progress, and for a trace and
parameters as they should be. -/
theorem invariant_of_idle {t : State} (hp : t.pc = .idle) (hb : t.busy = false)
    (hfl : t.done = false → t.ok = false ∧ t.err = 0) (hc : t.inFlight = none)
    (hd : t.disturbed = false) (ht : ∃ p, tracePhase t.trace = some p) (hl : LegalParams t.params) :
    Invariant t where
  busy_iff := by simp [hb, hp]
  running_flags h := absurd hp h
  fresh_flags _ := hfl
  running_cmd i h := by simp [hp, Pc.running] at h
  init_ok st h := by simp [hp] at h
  init_identity st h := by simp [hp] at h
  read_after_ready q m h := by simp [hp, Pc.measuring] at h
  acc_bound q h := by simp [hp, Pc.measuring] at h
  in_flight c h := by simp [hc] at h
  disturbed_run h := by simp [hd] at h
  foreign_disturbs h := absurd hp h
  trace_phase := ht.imp fun _ h => ⟨h, .inr (by rw [hp]; rfl)⟩
  legal_params := hl

theorem not_disturbed_of_idle {s : State} (h : Invariant s) (hp : s.pc = .idle) :
    s.disturbed = false :=
  Bool.eq_false_iff.2 fun hd => h.disturbed_run hd hp

theorem inFlight_of_idle {s : State} (h : Invariant s) (hp : s.pc = .idle) :
    s.inFlight = none :=
  inFlight_eq_none h (by rw [State.nextCall, hp]; rfl)

theorem tracePhase_some {s : State} (h : Invariant s) : ∃ p, tracePhase s.trace = some p :=
  h.trace_phase.imp fun _ hp => hp.1

theorem invariant_reset {s : State} (h : Invariant s) : Invariant (applyReset s) :=
  invariant_of_idle rfl rfl (fun _ => ⟨rfl, rfl⟩) (applyReset_inFlight s) rfl (tracePhase_abandon h)
    (applyReset_params s ▸ h.legal_params)

/-- The last step of a step list, and a raise in place of one, make no call. -/
theorem invariant_runEnds {s t : State} (h : Invariant s) (hu : s.Undisturbed)
    (hc : s.nextCall = none) (hp : t.pc = .idle) (hb : t.busy = false) (hd : t.done = true)
    (hi : t.inFlight = s.inFlight) (hdist : t.disturbed = s.disturbed) (ht : t.trace = s.trace)
    (hl : t.params = s.params) : Invariant t :=
  invariant_of_idle hp hb (fun hn => absurd (hd.symm.trans hn) nofun)
    (hi.trans (inFlight_eq_none h hc)) (hdist.trans hu.2.2) (ht ▸ tracePhase_some h)
    (hl ▸ h.legal_params)

/-! ## Acceptance -/

/-- Acceptance begins the step list of the command that is the word's (R24): its first step is past
neither the identity check nor the poll. -/
theorem invariant_accept {s : State} (h : Invariant s) (hp : s.pc = .idle) (i : Instr)
    (ws : List CmdWord) :
    Invariant (Machine.accept (encode i) (firstPc i) { s with port := ws }) where
  busy_iff := by simp
  running_flags _ := ⟨rfl, rfl⟩
  fresh_flags hi := absurd hi (firstPc_ne_idle i)
  running_cmd j hj := by
    cases (firstPc_running i).symm.trans hj
    exact decode_encode i
  init_ok st hst := by
    obtain ⟨rfl, -⟩ := firstPc_init hst
    rw [accept_ok, okAccepted_encode, if_pos rfl]
  init_identity st hst hck := by
    obtain ⟨-, rfl⟩ := firstPc_init hst
    cases hck
  read_after_ready q m hm hr := by
    cases firstPc_measuring hm
    cases hr
  acc_bound q hm := by cases firstPc_measuring hm
  in_flight c hc := absurd ((inFlight_of_idle h hp).symm.trans hc) nofun
  disturbed_run _ := firstPc_ne_idle i
  foreign_disturbs _ hf := hf
  trace_phase := (tracePhase_some h).imp fun _ ht => ⟨ht, .inr (firstPc_opens i)⟩
  legal_params := h.legal_params

/-! ## On within a run -/

/-- `t` is in the same run as `s`: the command, the flags, and what no run changes are as before (in
a step that writes none of them, by `rfl`). -/
structure SameRun (s t : State) : Prop where
  command : t.pc.running t.cmd = s.pc.running s.cmd
  cmd : t.cmd = s.cmd := by rfl
  busy : t.busy = s.busy := by rfl
  done : t.done = s.done := by rfl
  err : t.err = s.err := by rfl
  ok : t.ok = s.ok := by rfl
  foreignUse : t.foreignUse = s.foreignUse := by rfl
  disturbed : t.disturbed = s.disturbed := by rfl
  params : t.params = s.params := by rfl

theorem SameRun.ne_idle {s t : State} (h : SameRun s t) (hs : s.pc ≠ .idle) : t.pc ≠ .idle :=
  fun ht => hs (running_eq_none.1 (h.command.symm.trans (running_eq_none.2 ht)))

/-- A step within a run keeps the invariant if the data it has latched, its call and its trace are
what the place it has reached asks for. -/
theorem invariant_sameRun {s t : State} (h : Invariant s) (hs : s.pc ≠ .idle) (hr : SameRun s t)
    (hid : ∀ st, t.pc = .init st → st.afterCheck = true → t.rb = idExpected)
    (hready : ∀ q m, t.pc.measuring = some (q, m) → m.afterReady = true →
      readySet t.rb (readyMask q t.params) = true)
    (hacc : ∀ q, t.pc.measuring = some (q, .convert) → t.acc.toNat < accBound (burstLen q))
    (hfl : ∀ c, t.inFlight = some c → t.nextCall = some c)
    (htr : ∃ p, tracePhase t.trace = some p ∧ (p = t.pc.phase ∨ t.pc.opens = true)) :
    Invariant t where
  busy_iff := by simp [hr.busy, h.busy_iff.2 hs, hr.ne_idle hs]
  running_flags _ := by rw [hr.done, hr.err]; exact h.running_flags hs
  fresh_flags hi := absurd hi (hr.ne_idle hs)
  running_cmd i hi := by rw [hr.cmd]; exact h.running_cmd i (hr.command.symm.trans hi)
  init_ok st hst := by
    obtain ⟨st', hst'⟩ := running_eq_init.1 (hr.command.symm.trans (running_eq_init.2 ⟨st, hst⟩))
    exact hr.ok.trans (h.init_ok st' hst')
  init_identity := hid
  read_after_ready := hready
  acc_bound := hacc
  in_flight := hfl
  disturbed_run _ := hr.ne_idle hs
  foreign_disturbs _ hf := hr.disturbed.trans (h.foreign_disturbs hs (hr.foreignUse.symm.trans hf))
  trace_phase := htr
  legal_params := hr.params ▸ h.legal_params

theorem accBound_eq (n : ReadCount) : accBound n = 256 ^ n.toNat := by
  cases n <;> rfl

theorem bytes_length (bs : Burst) (n : ReadCount) : (bs.bytes n).length = n.toNat := by
  cases n <;> rfl

/-- A burst fits its bound (R150). -/
theorem assemble_bytes_lt (bs : Burst) (n : ReadCount) :
    (assemble (bs.bytes n)).toNat < accBound n := by
  have hn : n.toNat ≤ 4 := by cases n <;> decide
  rw [accBound_eq, ← bytes_length bs n]
  exact assemble_lt _ (bytes_length bs n ▸ hn)

/-- A call that has not returned leaves all but itself and `ACC`, which no step with a call has
bounds for. -/
theorem invariant_awaits {s t : State} {c : Call} (h : Invariant s) (hc : s.nextCall = some c)
    (hr : SameRun s t) (hp : t.pc = s.pc) (hrb : t.rb = s.rb) (hi : t.inFlight = some c)
    (ht : t.trace = s.trace) : Invariant t := by
  refine invariant_sameRun h (call_ne_idle hc) hr ?_ ?_ ?_ ?_ ?_
  · rw [hp, hrb]; exact h.init_identity
  · rw [hp, hrb, hr.params]; exact h.read_after_ready
  · rw [hp]
    intro q hq
    exact absurd (hc.symm.trans (measuring_nextCall hq)) nofun
  · rw [hi, State.nextCall, hp, hr.params, hr.cmd]
    rintro _ ⟨⟩
    exact hc
  · rw [hp, ht]; exact h.trace_phase

/-- A call that has returned `ok` brings the next step of the table, with the registers that the
step latches from its answer (R100 to R102, R133). -/
theorem invariant_goesOn {s t : State} {c : Call} {bs : List Byte} (h : Invariant s)
    (hc : s.nextCall = some c) (hr : SameRun s t) (hp : t.pc = nextPc s.pc)
    (hrb : latchesRb s.pc = false → t.rb = s.rb)
    (hacc : ∀ q, assembles s.pc = some q → t.acc.toNat < accBound (burstLen q))
    (hi : t.inFlight = none) (ht : t.trace = s.trace ++ [⟨c, .ok bs⟩]) : Invariant t := by
  have facts := call_facts hc
  refine invariant_sameRun h (call_ne_idle hc) hr ?_ ?_ ?_ ?_ ?_
  · rw [hp]
    intro st hst hck
    obtain ⟨hl, st', hst', hck'⟩ := facts.after_check st hst hck
    exact (hrb hl).trans (h.init_identity st' hst' hck')
  · rw [hp, hr.params]
    intro q m hm hrd
    obtain ⟨hl, m', hm', hrd'⟩ := facts.after_ready q m hm hrd
    exact hrb hl ▸ h.read_after_ready q m' hm' hrd'
  · rw [hp]
    intro q hq
    exact hacc q (facts.convert q hq)
  · simp [hi]
  · exact ⟨t.pc.phase, by rw [ht, hp, tracePhase_ok h hc], .inl rfl⟩

/-! ## Every step keeps the invariant -/

theorem sameRun_meas {s : State} {q : Quantity} {m : MeasStep} (hp : s.pc = measPc q m)
    (m' : MeasStep) (r : Word) : SameRun s { s with res := r, pc := measPc q m' } where
  command := by rw [hp]; exact measPc_running q m' m s.cmd

/-- A step without a call leaves the trace, so the next step stands between transactions too. -/
theorem invariant_internal {s t : State} (h : Invariant s) (hu : s.Undisturbed) (hs : s.pc ≠ .idle)
    (hi : Internal s t) : Invariant t := by
  have hc := internal_nextCall hi
  have hfl : s.inFlight = none := inFlight_eq_none h hc
  cases internal_cases hi with
  | identified hp hr =>
    refine invariant_sameRun h hs { command := by rw [hp]; rfl }
      (fun _ _ _ => hr) nofun nofun (by simp [hfl]) ?_
    simpa [hp, Pc.phase, Pc.opens, memWritePhase] using h.trace_phase
  | unknownDevice hp _ => exact invariant_runEnds h hu hc rfl rfl rfl rfl rfl rfl rfl
  | ready q hp hr =>
    refine invariant_sameRun h hs (sameRun_meas hp _ s.res) (by simp)
      (by simpa using fun _ => hr) (by simp) (by simp [hfl]) ?_
    simpa [hp, MeasStep.phase, measPc_opens, memReadPhase] using h.trace_phase
  | notReady q hp _ =>
    refine invariant_sameRun h hs (sameRun_meas hp _ s.res) (by simp)
      (by simp [MeasStep.afterReady]) (by simp) (by simp [hfl]) ?_
    simpa [hp, MeasStep.phase, measPc_opens] using h.trace_phase
  | converts q hp =>
    have hr := h.read_after_ready q .convert (by rw [hp, measPc_measuring]) rfl
    refine invariant_sameRun h hs (sameRun_meas hp _ _) (by simp) (by simpa using fun _ => hr)
      (by simp) (by simp [hfl]) ?_
    simpa [hp, MeasStep.phase, measPc_opens] using h.trace_phase
  | ends _ => exact invariant_runEnds h hu hc rfl rfl rfl rfl rfl rfl rfl
  | initEnds _ => exact invariant_runEnds h hu hc rfl rfl rfl rfl rfl rfl rfl

theorem invariant_step {s t : State} (h : Invariant s) (e : Machine.step s = .next t) :
    Invariant t := by
  cases step_cases e with
  | reset _ => exact invariant_reset h
  | idles _ _ _ => exact h
  | accepts _ hp w ws _ i _ => exact invariant_accept h hp i ws
  | refuses _ hp w ws _ x _ =>
    exact invariant_of_idle rfl rfl nofun (inFlight_of_idle (s := s) h hp)
      (not_disturbed_of_idle (s := s) h hp) (tracePhase_some (s := s) h) h.legal_params
  | waits _ c hc _ as d =>
    exact invariant_awaits h hc { command := rfl } rfl rfl rfl rfl
  | fails hu c hc _ as d x =>
    exact invariant_of_idle rfl rfl nofun rfl hu.2.2 (tracePhase_err h hc x) h.legal_params
  | returns _ c hc _ as d bs =>
    refine invariant_goesOn h hc { command := (call_facts hc).same_command } rfl
      (fun hl => by simp [afterOk, hl, beforeCall]) (fun q hq => ?_) rfl rfl
    simpa [afterOk, hq] using assemble_bytes_lt bs (burstLen q)
  | sleeps _ q _ hc ws d =>
    exact invariant_awaits h hc { command := rfl } rfl rfl rfl rfl
  | wakes _ q hq hc ws d =>
    refine invariant_goesOn h hc { command := (call_facts hc).same_command } rfl
      (fun _ => rfl) (fun q' hq' => ?_) rfl rfl
    cases hq.symm.trans (assembles_spec hq')
  | internal hu hp _ hi => exact invariant_internal h hu hp hi

/-- Settles O16, by the cases of a step: into `IDLE`, to the first step of a command, or on within
the run. -/
theorem stepKeepsInvariant : Obligations.StepKeepsInvariant := fun _ _ => invariant_step

end Sys2Proof.Proofs
end

section
/-!
Proofs about what the invariant gives (spec 10_state.md section 6; 30_encoding.md section 3;
20_memory.md sections 4 and 5): it holds at reset and in every reachable state, the calls of a trace
stand where a shape has them, and a step makes at most its own one call.
-/
namespace Sys2Proof.Proofs

open Sys2Proof.Machine Sys2Proof.Laws

/-! ## Every reachable state -/

theorem referenceParams_legal : LegalParams referenceParams :=
  ⟨by decide, by decide, by decide, by decide, by decide⟩

/-- The values of reset with any legal parameters, and anything in the registers R41 leaves open. -/
theorem invariant_of_initial {s : State} (h : s.Initial) : Invariant s := by
  obtain ⟨hl, acc, rb, res, cmd, terr, draws, hs⟩ := h
  rw [hs]
  exact invariant_of_idle rfl rfl (fun _ => ⟨rfl, rfl⟩) rfl rfl ⟨.free, rfl⟩ hl

/-- A host move drives inputs; another agent's use, begun in a run, marks the run. -/
theorem invariant_hostMove {s : State} (h : Invariant s) (m : HostMove) :
    Invariant (m.apply s) := by
  cases m with
  | drivePort _ | requestReset | scriptAnswers _ | scriptWakes _ => exact { h with }
  | setForeignUse b =>
    refine { h with disturbed_run := fun hd hp => ?_, foreign_disturbs := fun hp hb => ?_ }
    · have hp' : s.pc = .idle := hp
      simp [HostMove.apply, hp', not_disturbed_of_idle h hp'] at hd
    · have hp' : s.pc ≠ .idle := hp
      have hb' : b = true := hb
      simp [HostMove.apply, hp', hb']

theorem invariant_of_reachable {s : State} (h : Reachable s) : Invariant s := by
  induction h with
  | initial h => exact invariant_of_initial h
  | step _ e ih => exact invariant_step ih e
  | host _ m ih => exact invariant_hostMove ih m

/-- Settles O17: the state after reset is an initial one, with the reference parameters. -/
theorem resetMeetsInvariant : Obligations.ResetMeetsInvariant :=
  invariant_of_initial ⟨referenceParams_legal, 0, 0, 0, 0, TErr.first, 0, rfl⟩

/-- Settles O18. -/
theorem hostMovesKeepInvariant : Obligations.HostMovesKeepInvariant := fun _ m h =>
  invariant_hostMove h m

/-! ## The calls of a trace -/

/-- A start or a read goes to the sensor's address, a sleep lasts the poll's interval (R37, R90). -/
def CallInPlace (c : Call) : Prop :=
  (∀ a7, c = .start a7 → a7 = 0x60) ∧ (∀ a7 n, c = .read a7 n → a7 = 0x60) ∧
    (∀ ms, c = .sleep ms → ms = 10)

theorem callInPlace_of_afterCall {p r : TxPhase} {c : Call} (h : p.afterCall c = some r) :
    CallInPlace c := by
  refine ⟨?_, ?_, ?_⟩
  · rintro a7 rfl
    exact by_contra fun hn => by simp [TxPhase.afterCall, show a7 ≠ devAddr from hn] at h
  · rintro a7 n rfl
    exact by_contra fun hn => by simp [TxPhase.afterCall, show a7 ≠ devAddr from hn] at h
  · rintro ms rfl
    exact by_contra fun hn => by simp [TxPhase.afterCall, show ms ≠ pollInterval from hn] at h

theorem callInPlace_of_after {p r : TxPhase} {e : Event} (h : p.after e = some r) :
    CallInPlace e.call := by
  have : ∃ r', p.afterCall e.call = some r' := by
    unfold TxPhase.after at h
    split at h
    · exact ⟨r, h⟩
    · exact (Option.map_eq_some_iff.1 h).imp fun _ hr => hr.1
    · exact (Option.map_eq_some_iff.1 h).imp fun _ hr => hr.1
  obtain ⟨r', hr⟩ := this
  exact callInPlace_of_afterCall hr

theorem tracePhase_concat_eq_some {es : List Event} {e : Event} {p : TxPhase}
    (h : tracePhase (es ++ [e]) = some p) : ∃ q, tracePhase es = some q ∧ q.after e = some p := by
  simp only [tracePhase, List.foldl_append, List.foldl_cons, List.foldl_nil] at h
  exact Option.bind_eq_some_iff.1 h

theorem callInPlace_of_tracePhase {es : List Event} {p : TxPhase} (h : tracePhase es = some p) :
    ∀ e ∈ es, CallInPlace e.call := by
  induction es using List.reverseRecOn generalizing p with
  | nil => simp
  | append_singleton es e ih =>
    obtain ⟨q, hq, he⟩ := tracePhase_concat_eq_some h
    intro x hx
    obtain hx | rfl := by simpa using hx
    · exact ih hq x hx
    · exact callInPlace_of_after he

theorem callInPlace_of_invariant {s : State} (h : Invariant s) : ∀ c ∈ s.calls, CallInPlace c := by
  intro c hc
  obtain ⟨e, he, rfl⟩ | hf := by simpa [State.calls] using hc
  · obtain ⟨p, hp⟩ := tracePhase_some h
    exact callInPlace_of_tracePhase hp e he
  · obtain ⟨p, -, ha⟩ := tracePhase_call h (h.in_flight c hf)
    exact callInPlace_of_afterCall ha

/-- Settles O20: the invariant holds in every reachable state, and a trace that has a phase has all
its calls in place, the one in progress too. -/
theorem tracesAreMadeOfShapes : Obligations.TracesAreMadeOfShapes := fun _ hs =>
  have h := invariant_of_reachable hs
  ⟨h.trace_phase, callInPlace_of_invariant h⟩

/-! ## The bus held -/

theorem memReadCall_of_held {l : Line} (h : memReadPhase l = .held) (a : Byte) (n : ReadCount) :
    memReadCall a n l = .read devAddr n := by
  cases l with
  | one | two | three => cases h
  | four => rfl

theorem memWritePhase_ne_held (l : Line) : memWritePhase l ≠ .held := by
  cases l <;> nofun

theorem measCall_of_held {m : MeasStep} (h : m.phase = .held) (q : Quantity) :
    ∃ n, measCall q m = some (.read devAddr n) := by
  cases m with
  | poll l | read l => exact ⟨_, congrArg some (memReadCall_of_held h _ _)⟩
  | test | sleep | convert | done => cases h

/-- Only line 4 of a `MemRead` stands where the bus is held (R38). -/
theorem call_of_held {p : Pc} (h : p.phase = .held) (params : Params) (w : CmdWord) :
    ∃ n, p.call params w = some (.read devAddr n) := by
  match p with
  | .init (.idRead l) => exact ⟨_, congrArg some (memReadCall_of_held h _ _)⟩
  | .rdreg (.xfer l) => exact ⟨_, congrArg some (memReadCall_of_held h _ _)⟩
  | .getp (.meas m) => exact measCall_of_held h .pressure
  | .geta (.meas m) => exact measCall_of_held h .altitude
  | .gett m => exact measCall_of_held h .temperature
  | .init (.ctrlWrite l) => exact absurd h (memWritePhase_ne_held l)
  | .init (.evcfgWrite l) => exact absurd h (memWritePhase_ne_held l)
  | .getp (.arm l) => exact absurd h (memWritePhase_ne_held l)
  | .geta (.arm l) => exact absurd h (memWritePhase_ne_held l)
  | .wrreg (.xfer l) => exact absurd h (memWritePhase_ne_held l)

/-- Settles O21: past the first call of a run the trace's phase is that of `pc`. -/
theorem heldBusOnlyReads : Obligations.HeldBusOnlyReads := by
  intro s h ho ht
  obtain ⟨p, hp, hpc | hop⟩ := h.trace_phase
  · have hh : s.pc.phase = .held := hpc.symm.trans (Option.some.inj (hp.symm.trans ht))
    exact call_of_held hh s.params s.cmd
  · exact absurd (ho.symm.trans hop) nofun

/-! ## One call at most -/

/-- A call in progress is already counted; another can only be the step's own. -/
theorem calls_grow {s t : State} {c : Call} (h : Invariant s) (hc : s.nextCall = some c)
    (ht : t.calls = s.trace.map Event.call ++ [c]) :
    t.calls = s.calls ∨ ∃ c, s.nextCall = some c ∧ t.calls = s.calls ++ [c] := by
  cases hs : s.inFlight with
  | none => exact .inr ⟨c, hc, by rw [ht, State.calls, hs]; simp⟩
  | some c' =>
    cases hc.symm.trans (h.in_flight c' hs)
    exact .inl (by rw [ht, State.calls, hs]; simp)

theorem abandon_trace_grows (s : State) : s.trace <+: (abandon s).trace := by
  unfold abandon
  split
  · exact List.prefix_append _ _
  · exact List.prefix_rfl

theorem internal_calls {s t : State} (h : Internal s t) :
    t.trace = s.trace ∧ t.calls = s.calls := by
  cases internal_cases h <;> exact ⟨rfl, rfl⟩

/-- Settles O25, by the cases of a step: with a call the trace keeps its beginning and the step's
own call is added, unless it was already in progress; without one neither changes. -/
theorem atMostOneCallPerStep : Obligations.AtMostOneCallPerStep := by
  intro s t h e
  cases step_cases e with
  | reset _ => exact ⟨abandon_trace_grows s, .inl (applyReset_calls s)⟩
  | idles _ _ _ | accepts _ _ _ _ _ _ _ | refuses _ _ _ _ _ _ _ =>
    exact ⟨List.prefix_rfl, .inl rfl⟩
  | waits _ c hc _ _ _ =>
    exact ⟨List.prefix_rfl, calls_grow h hc (by simp [State.calls, beforeCall])⟩
  | sleeps _ _ _ hc _ _ => exact ⟨List.prefix_rfl, calls_grow h hc (by simp [State.calls])⟩
  | fails _ c hc _ _ _ _ =>
    exact ⟨List.prefix_append _ _, calls_grow h hc (by simp [State.calls, beforeCall])⟩
  | returns _ c hc _ _ _ _ =>
    exact ⟨List.prefix_append _ _, calls_grow h hc (by simp [State.calls, beforeCall, afterOk])⟩
  | wakes _ _ _ hc _ _ =>
    exact ⟨List.prefix_append _ _, calls_grow h hc (by simp [State.calls])⟩
  | internal _ _ _ hi =>
    obtain ⟨ht, hg⟩ := internal_calls hi
    exact ⟨ht ▸ List.prefix_rfl, .inl hg⟩

end Sys2Proof.Proofs
end

section
/-!
Proofs about acceptance, hazards and reset (spec 10_state.md section 2; 70_reset_and_hazards.md
sections 1 and 3), and about calls that return or do not (40_byte_transactions.md section 1).
-/
namespace Sys2Proof.Proofs

open Sys2Proof.Machine Sys2Proof.Laws

/-! ## Acceptance -/

/-- Settles O6. -/
theorem stepRunsDecodedCommand : Obligations.StepRunsDecodedCommand := by
  refine ⟨fun s w ws i hr hp hport hd => ?_, fun s i hu hi _ => step_running hu hi,
    fun s hr hp hport => ?_⟩
  · have he : exec i { s with port := ws } = _ := exec_idle i hp
    rw [step_accepts hr hp hport hd, he]
  · simp [step, sequencerStep, idleStep, hr, hp, hport, Pc.running]

/-- Settles O7: `accept` with the command's first step, and `OK` as `okAccepted_encode` says. -/
theorem acceptanceLatchesCommand : Obligations.AcceptanceLatchesCommand := fun s i hp =>
  ⟨firstPc i, firstPc_running i, by rw [exec_idle i hp, ← okAccepted_encode]; rfl⟩

/-- Settles O8: the first steps are those of the table `firstPc`. -/
theorem acceptanceGoesToFirstStep : Obligations.AcceptanceGoesToFirstStep := by
  intro s t i hp h
  rw [exec_idle i hp] at h
  cases h
  cases i <;> rfl

/-- The acceptance of a reserved word (R24, R86). -/
theorem step_refuses {s : State} {w : CmdWord} {ws : List CmdWord} {x : Reserved}
    (hr : s.resetReq = false) (hp : s.pc = .idle) (h : s.port = w :: ws)
    (hd : decode w = .error x) : step s = .next (acceptReserved w { s with port := ws }) := by
  simp [step, sequencerStep, idleStep, acceptWord, hr, hp, h, hd, Pc.running]

/-- Settles O9: a word that no row selects does not decode. -/
theorem reservedWordRaisesIllegalCommand : Obligations.ReservedWordRaisesIllegalCommand := by
  intro s w ws hr hp hport hw
  obtain ⟨x, hd⟩ := (unselected_iff_decode_error w).1 hw
  rw [step_refuses hr hp hport hd]
  rfl

/-! ## A command that runs -/

theorem internal_port_cmd {s t : State} (h : Internal s t) : t.port = s.port ∧ t.cmd = s.cmd := by
  cases internal_cases h <;> exact ⟨rfl, rfl⟩

/-- Settles O10: of the cases of a step only acceptance and reset write the port or `CMD`. -/
theorem offeredWordWaitsWhileRunning : Obligations.OfferedWordWaitsWhileRunning := by
  intro s t hr hp e
  cases step_cases e with
  | reset h => exact absurd (hr.symm.trans h) nofun
  | idles _ hi | accepts _ hi | refuses _ hi => exact absurd hi hp
  | waits | fails | returns | sleeps | wakes => exact ⟨rfl, rfl⟩
  | internal _ _ _ hi => exact internal_port_cmd hi

/-- A meaning applied while a step list that is not its own runs (log entry 10). -/
theorem exec_other {s : State} {i : Instr} (hp : s.pc ≠ .idle)
    (hi : s.pc.running (encode i) ≠ some i) : exec i s = .next s := by
  obtain ⟨pc⟩ := s
  cases pc <;> cases i <;> first
    | rfl
    | exact absurd rfl hp
    | exact absurd (by simp [Pc.running, encode]) hi

theorem running_mnemonic {p : Pc} {w w' : CmdWord} {i j : Instr} (hi : p.running w = some i)
    (hj : p.running w' = some j) : i.mnemonic = j.mnemonic := by
  cases p <;> cases hi <;> cases hj <;> rfl

/-- Settles O11: the step list a step is in determines the command's name. -/
theorem otherCommandNotAccepted : Obligations.OtherCommandNotAccepted := fun _ _ _ hj hne =>
  exec_other (fun hp => absurd (hj.symm.trans (running_eq_none.2 hp)) nofun) fun hi =>
    hne (running_mnemonic hi hj)

/-! ## Reset -/

theorem step_reset {s : State} (h : s.resetReq = true) : step s = .next (applyReset s) := by
  simp [step, sequencerStep, h]

/-- Settles O14. -/
theorem resetStateFlags : Obligations.ResetStateFlags := ⟨rfl, rfl, rfl, rfl, rfl, rfl, rfl⟩

/-- Settles O15: the reset action is `applyReset`, whose laws say what it leaves. -/
theorem resetActionAbandonsRun : Obligations.ResetActionAbandonsRun := fun s h =>
  ⟨applyReset s, step_reset h, by simp⟩

/-! ## Another agent's use -/

theorem running_of_ne_idle {s : State} (hp : s.pc ≠ .idle) : ∃ i, s.pc.running s.cmd = some i :=
  Option.ne_none_iff_exists'.1 (mt running_eq_none.1 hp)

theorem step_foreign {s : State} (hr : s.resetReq = false) (hp : s.pc ≠ .idle)
    (h : s.foreignUse = true ∨ s.disturbed = true) :
    step s = .refused .exclusiveAccessViolated := by
  obtain ⟨i, hi⟩ := running_of_ne_idle hp
  simp [step, sequencerStep, runStep, hr, hi, h]

/-- Settles O12. -/
theorem foreignUseRefused : Obligations.ForeignUseRefused := by
  intro s hp h
  split
  case isTrue hr => exact step_reset hr
  case isFalse hr => exact step_foreign (Bool.eq_false_iff.2 hr) hp h

/-- No host move clears the mark of a disturbed run. -/
theorem hostMove_disturbed {s : State} (h : s.disturbed = true) (m : HostMove) :
    (m.apply s).disturbed = true := by
  cases m <;> simp [HostMove.apply, h]

theorem hostMoves_disturbed (ms : List HostMove) {s : State} (h : s.disturbed = true) :
    (ms.foldl (fun u m => m.apply u) s).disturbed = true := by
  induction ms generalizing s with
  | nil => exact h
  | cons m ms ih => exact ih (hostMove_disturbed h m)

theorem hostMoves_pc (ms : List HostMove) (s : State) :
    (ms.foldl (fun u m => m.apply u) s).pc = s.pc := by
  induction ms generalizing s with
  | nil => rfl
  | cons m ms ih => exact (ih _).trans (hostMove_pc m s)

/-- Settles O13, by induction over the host moves: the use marks the run, and no move ends the run
or clears its mark. -/
theorem disturbanceIsNotForgotten : Obligations.DisturbanceIsNotForgotten := by
  intro s ms hp hr
  have hd : ((HostMove.setForeignUse true).apply s).disturbed = true := by simp [HostMove.apply, hp]
  refine step_foreign hr ?_ (.inr (hostMoves_disturbed ms hd))
  rwa [hostMoves_pc, hostMove_pc]

/-! ## Calls -/

/-- A call on the transport that returns `ok`. -/
theorem step_ok {s : State} {c : Call} {bs : Burst} {as : List Answer} (hu : s.Undisturbed)
    (hc : s.nextCall = some c) (hn : ∀ ms, c ≠ .sleep ms) (ha : s.answers = .ok bs :: as) :
    step s = .next
      (afterOk s.pc bs (record c (.ok (c.yields bs)) { beforeCall s with answers := as })) := by
  have ha' : (beforeCall s).answers = .ok bs :: as := ha
  rw [step_call hu hc hn, call_ok c _ ha']

theorem step_pending {s : State} {c : Call} {as : List Answer} (hu : s.Undisturbed)
    (hc : s.nextCall = some c) (hn : ∀ ms, c ≠ .sleep ms) (ha : s.answers = .pending :: as) :
    step s = .next (await c { beforeCall s with answers := as }) := by
  have ha' : (beforeCall s).answers = .pending :: as := ha
  rw [step_call hu hc hn, call_pending c _ ha']

/-- POLL.5 when the host runtime has returned, and when it has not (R88). -/
theorem step_wakes {s : State} {q : Quantity} {ws : List Bool} (hu : s.Undisturbed)
    (hp : s.pc = measPc q .sleep) (hw : s.wakes = true :: ws) :
    step s = .next { s with
      wakes := ws
      trace := s.trace ++ [⟨.sleep 10, .ok []⟩]
      inFlight := none
      pc := measPc q (.poll .one) } := by
  rw [step_meas hu hp]
  simp [measureStep, sleepCall, takeWake, hw, record, pollInterval]

theorem step_sleeps {s : State} {q : Quantity} {ws : List Bool} (hu : s.Undisturbed)
    (hp : s.pc = measPc q .sleep) (hw : s.wakes = false :: ws) :
    step s = .next { s with wakes := ws, inFlight := some (.sleep 10) } := by
  rw [step_meas hu hp]
  simp [measureStep, sleepCall, takeWake, hw, await, pollInterval]

/-- Settles O22: `afterOk` moves `pc` and latches `RB` or `ACC`, and nothing else. -/
theorem okAnswerCompletesTheNamedCall : Obligations.OkAnswerCompletesTheNamedCall :=
  ⟨fun _ _ _ _ hu hc hn ha =>
    ⟨_, step_ok hu hc hn ha, rfl, rfl, rfl, (call_facts hc).running_on, (call_facts hc).moves,
      rfl, rfl, rfl, rfl, rfl, rfl, rfl⟩,
    fun _ q _ hu hq hw =>
      ⟨_, measPc_measuring q (.poll .one), step_wakes hu (measuring_eq_some.1 hq) hw⟩⟩

/-- Settles O24. -/
theorem pendingCallBlocks : Obligations.PendingCallBlocks :=
  ⟨fun _ _ _ hu hc hn ha =>
    ⟨_, step_pending hu hc hn ha, rfl, rfl, rfl, rfl, rfl, rfl, rfl, rfl, rfl⟩,
    fun _ _ _ hu hq hw => step_sleeps hu (measuring_eq_some.1 hq) hw⟩

end Sys2Proof.Proofs
end

section
/-!
Proofs about which steps write a register (spec 10_state.md sections 2 and 3; 60_exceptions.md
section 3) and which leave the poll (42_measurement.md section 1): each by the cases of a step.
-/
namespace Sys2Proof.Proofs

open Sys2Proof.Machine Sys2Proof.Laws

/-! ## The tables of latched registers -/

theorem latchesRb_cases {p : Pc} (h : latchesRb p = true) :
    p = .init (.idRead .four) ∨ p = .rdreg (.xfer .four) ∨
      ∃ q, p.measuring = some (q, .poll .four) := by
  unfold latchesRb at h
  split at h
  · exact .inl rfl
  · exact .inr (.inl rfl)
  · split at h
    case h_1 q hq => exact .inr (.inr ⟨q, hq⟩)
    case h_2 => cases h

/-- `RB` is latched at the read of `MemRead(addr, 1)` only. -/
theorem call_of_latchesRb {p : Pc} {params : Params} {w : CmdWord} {c : Call}
    (h : latchesRb p = true) (hc : p.call params w = some c) : c = .read devAddr .one := by
  obtain rfl | rfl | ⟨q, hq⟩ := latchesRb_cases h
  · cases hc; rfl
  · cases hc; rfl
  · rw [measuring_eq_some.1 hq, measPc_call] at hc
    cases hc
    rfl

/-! ## The data registers -/

/-- Settles O26. -/
theorem onlyConvertWritesRes : Obligations.OnlyConvertWritesRes := by
  intro s t hr e hne
  cases step_cases e with
  | reset h => exact absurd (hr.symm.trans h) nofun
  | idles | accepts | refuses | waits | fails | returns | sleeps | wakes => exact absurd rfl hne
  | internal _ _ _ hi =>
    cases internal_cases hi with
    | identified | unknownDevice | ready | notReady | ends | initEnds => exact absurd rfl hne
    | converts q hp => exact ⟨q, by rw [hp, measPc_measuring], rfl⟩

/-- Settles O28: an `ok` answer writes `RB` in the steps of `latchesRb` only. -/
theorem onlyByteReadsWriteRb : Obligations.OnlyByteReadsWriteRb := by
  intro s t hr e hne
  cases step_cases e with
  | reset h => exact absurd (hr.symm.trans h) nofun
  | idles | accepts | refuses | waits | fails | sleeps | wakes => exact absurd rfl hne
  | returns _ c hc _ _ _ bs =>
    have hl : latchesRb s.pc = true := by
      by_contra hl
      exact hne (by simp [afterOk, beforeCall, hl])
    cases call_of_latchesRb hl hc
    exact ⟨hc, by simp [afterOk, beforeCall, hl, Call.yields, Burst.bytes]⟩
  | internal _ _ _ hi => cases internal_cases hi <;> exact absurd rfl hne

/-- What a step does before its call, if that changes `ACC`: it is READ.0 and `ACC` is cleared. -/
theorem beforeCall_acc {s : State} (h : (beforeCall s).acc ≠ s.acc) :
    ∃ q, s.pc.measuring = some (q, .read .one) ∧ (beforeCall s).acc = 0 := by
  have hcl : clears s.pc = true := by
    by_contra hcl
    exact h (by simp [beforeCall, hcl])
  obtain ⟨q, hq⟩ := clears_spec hcl
  exact ⟨q, hq, by simp [beforeCall, hcl]⟩

/-- Settles O27: READ.0 clears `ACC` before its call, however that ends, and only an `ok` answer at
READ.3 assembles. -/
theorem onlyReadWritesAcc : Obligations.OnlyReadWritesAcc := by
  intro s t hr e hne
  cases step_cases e with
  | reset h => exact absurd (hr.symm.trans h) nofun
  | idles | accepts | refuses | sleeps | wakes => exact absurd rfl hne
  | waits | fails => exact (beforeCall_acc hne).imp fun _ => .inl
  | returns _ c hc _ _ _ bs =>
    cases ha : assembles s.pc with
    | some q =>
      have hq := assembles_spec ha
      cases hc.symm.trans (measuring_nextCall hq)
      exact ⟨q, .inr ⟨hq, bs, by simp [afterOk, ha], rfl⟩⟩
    | none =>
      have hacc : ∀ u, (afterOk s.pc bs u).acc = u.acc := fun u => by simp [afterOk, ha]
      rw [hacc] at hne ⊢
      exact (beforeCall_acc hne).imp fun _ => .inl
  | internal _ _ _ hi => cases internal_cases hi <;> exact absurd rfl hne

/-! ## The flags and the outcome -/

/-- Settles O29. -/
theorem onlyBusErrorWritesTerr : Obligations.OnlyBusErrorWritesTerr := by
  intro s t hr e
  cases step_cases e with
  | reset h => exact absurd (hr.symm.trans h) nofun
  | idles | accepts | refuses | waits | returns | sleeps | wakes => exact .inl rfl
  | fails _ c hc => exact .inr ⟨rfl, c, hc, rfl⟩
  | internal _ _ _ hi => cases internal_cases hi <;> exact .inl rfl

/-- The acceptance of a word changes `OK` only if the word has `INIT`'s operation code. -/
theorem okAccepted_ne {w : CmdWord} {b : Bool} (h : okAccepted w b ≠ b) :
    okAccepted w b = false ∧ cmdOp w = 0x01 := by
  unfold okAccepted at h ⊢
  split at h
  case isTrue hw => exact ⟨if_pos hw, hw⟩
  case isFalse => exact absurd rfl h

/-- Settles O30. -/
theorem onlyInitWritesOk : Obligations.OnlyInitWritesOk := by
  intro s t hr e hne
  cases step_cases e with
  | reset h => exact absurd (hr.symm.trans h) nofun
  | idles | waits | fails | returns | sleeps | wakes => exact absurd rfl hne
  | accepts _ hp w ws h i hd =>
    obtain ⟨hf, hw⟩ := okAccepted_ne hne
    exact .inr ⟨hf, hp, w, ws, h, encode_of_decode hd ▸ hw⟩
  | refuses _ hp w ws h =>
    obtain ⟨hf, hw⟩ := okAccepted_ne hne
    exact .inr ⟨hf, hp, w, ws, h, hw⟩
  | internal _ _ _ hi =>
    cases internal_cases hi with
    | identified | unknownDevice | ready | notReady | converts | ends => exact absurd rfl hne
    | initEnds hp => exact .inl ⟨rfl, hp⟩

/-- Settles O31. -/
theorem errWrittenByAcceptanceAndRaise : Obligations.ErrWrittenByAcceptanceAndRaise := by
  intro s t hr e hne
  cases step_cases e with
  | reset h => exact absurd (hr.symm.trans h) nofun
  | idles | waits | returns | sleeps | wakes => exact absurd rfl hne
  | accepts _ hp => exact .inl ⟨hp, .inl rfl⟩
  | refuses _ hp => exact .inl ⟨hp, .inr rfl⟩
  | fails _ c hc => exact .inr ⟨rfl, rfl, .inr ⟨rfl, c, hc⟩⟩
  | internal _ _ _ hi =>
    cases internal_cases hi with
    | identified | ready | notReady | converts | ends | initEnds => exact absurd rfl hne
    | unknownDevice hp => exact .inr ⟨rfl, rfl, .inl ⟨rfl, hp⟩⟩

/-! ## Leaving the poll -/

@[simp] theorem nextPc_measPc (q : Quantity) (m : MeasStep) :
    nextPc (measPc q m) = measNext (measPc q) m := by
  cases q <;> rfl

/-- A call of the poll that returns leads to another step of the poll; POLL.4 makes none. -/
theorem measNext_poll {q : Quantity} {m : MeasStep} {c : Call} (hr : m.afterReady = false)
    (hc : measCall q m = some c) :
    ∃ m', measNext (measPc q) m = measPc q m' ∧ m'.afterReady = false := by
  cases m with
  | poll l => cases l <;> exact ⟨_, rfl, rfl⟩
  | sleep => exact ⟨.poll .one, rfl, rfl⟩
  | test => cases hc
  | read | convert | done => cases hr

/-- Settles O48. -/
theorem pollLeftOnlyWhenReady : Obligations.PollLeftOnlyWhenReady := by
  intro s t q m hr hm hpoll e
  have hp := measuring_eq_some.1 hm
  have hidle : s.pc ≠ .idle := hp ▸ measPc_ne_idle q m
  cases step_cases e with
  | reset h => exact absurd (hr.symm.trans h) nofun
  | idles _ hi | accepts _ hi | refuses _ hi => exact absurd hi hidle
  | waits | sleeps => exact .inl ⟨m, hm, hpoll⟩
  | returns _ c hc | wakes _ _ _ hc =>
    rw [measuring_nextCall hm] at hc
    obtain ⟨m', hn, hm'⟩ := measNext_poll hpoll hc
    refine .inl ⟨m', ?_, hm'⟩
    change (nextPc s.pc).measuring = _
    rw [hp, nextPc_measPc, hn, measPc_measuring]
  | fails _ c _ _ _ _ x => exact .inr (.inr ⟨rfl, rfl, c, x, rfl⟩)
  | internal _ _ _ hi =>
    cases internal_cases hi with
    | ready q' hp' hrd =>
      cases hm.symm.trans (measuring_eq_some.2 hp')
      exact .inr (.inl ⟨rfl, hrd, measPc_measuring q _⟩)
    | notReady q' hp' =>
      cases hm.symm.trans (measuring_eq_some.2 hp')
      exact .inl ⟨.sleep, measPc_measuring q _, rfl⟩
    | converts q' hp' =>
      cases hm.symm.trans (measuring_eq_some.2 hp')
      cases hpoll
    | identified hp' | unknownDevice hp' | initEnds hp' =>
      rw [hp'] at hm
      cases hm
    | ends h =>
      obtain hp' | hp' | ⟨q', hp'⟩ := h
      · rw [hp'] at hm; cases hm
      · rw [hp'] at hm; cases hm
      · cases hm.symm.trans (measuring_eq_some.2 hp')
        cases hpoll

end Sys2Proof.Proofs
end

section
/-!
Proofs about the frames of the commands (spec 40_byte_transactions.md section 4;
41_initialization.md; 42_measurement.md section 2): first what a meaning applied to any state can
do, which is at most the one call that the command's own step list names, then what each command
leaves.
-/
namespace Sys2Proof.Proofs

open Sys2Proof.Machine Sys2Proof.Laws

/-! ## A meaning in its own step list -/

/-- `i`'s meaning in a step of `i`'s step list, whatever `CMD` holds: the wrapper around the step's
call, or the sleep, or a step without a call (R20). -/
inductive OwnStep (i : Instr) (s : State) : Prop where
  | calls (c : Call) (hc : s.pc.call s.params (encode i) = some c)
      (he : exec i s = .next (call c (afterOk s.pc) (beforeCall s)))
  | sleeps (hq : ∃ q, s.pc.measuring = some (q, .sleep))
      (hc : s.pc.call s.params (encode i) = some (.sleep pollInterval))
      (he : exec i s = .next (sleepCall (nextPc s.pc) s))
  | internal (hc : s.pc.call s.params (encode i) = none) (t : State) (he : exec i s = .next t)
      (h : Internal s t)

/-- With the command's word, or one that gives its steps the same calls, in `CMD`. -/
theorem ownStep_of_running {i : Instr} {s : State} (hi : s.pc.running s.cmd = some i)
    (hw : s.pc.call s.params s.cmd = s.pc.call s.params (encode i)) : OwnStep i s := by
  cases hc : s.nextCall with
  | none =>
    obtain ⟨t, he, ht⟩ := exec_internal hi hc
    exact .internal (hw.symm.trans hc) t he ht
  | some c =>
    cases ht : onTransport c with
    | true => exact .calls c (hw.symm.trans hc) (exec_calls hi hc ht)
    | false =>
      obtain ⟨rfl, hq, he⟩ := exec_sleeps hi hc ht
      exact .sleeps hq (hw.symm.trans hc) he

theorem execRdreg_own (a : Byte) {s : State} {st : XferStep} (hp : s.pc = .rdreg st) :
    OwnStep (.rdreg a) s := by
  cases st with
  | finish =>
    exact .internal (by rw [hp]; rfl) _ (by rw [exec, execRdreg, hp]) (.rdregFinish hp)
  | xfer l =>
    refine .calls (memReadCall a .one l) (by simp [hp, Pc.call, encode]) ?_
    obtain ⟨pc⟩ := s
    cases hp
    cases l <;> rfl

theorem execWrreg_own (a d : Byte) {s : State} {st : XferStep} (hp : s.pc = .wrreg st) :
    OwnStep (.wrreg a d) s := by
  cases st with
  | finish =>
    exact .internal (by rw [hp]; rfl) _ (by rw [exec, execWrreg, hp]) (.wrregFinish hp)
  | xfer l =>
    refine .calls (memWriteCall a d l) (by simp [hp, Pc.call, encode]) ?_
    obtain ⟨pc⟩ := s
    cases hp
    cases l <;> rfl

theorem exec_own {i : Instr} {s : State} (hi : s.pc.running (encode i) = some i) : OwnStep i s := by
  rcases hp : s.pc with _ | st | (l | m) | (l | m) | m | st | st <;>
    rw [hp] at hi <;> cases i <;> first
    | exact ownStep_of_running (by rw [hp]; rfl) (by rw [hp]; rfl)
    | exact execRdreg_own _ hp
    | exact execWrreg_own _ _ hp
    | cases hi

/-! ## The inversion of a meaning -/

/-- What a meaning that answers a next state has done: as `StepCase`, with the command's own
operands, without the premises that only the step asks for, and nothing while another command
runs. -/
inductive ExecCase (i : Instr) (s : State) : State → Prop where
  | accepts (hp : s.pc = .idle) : ExecCase i s (accept (encode i) (firstPc i) s)
  | others (hp : s.pc ≠ .idle) (hi : s.pc.running (encode i) ≠ some i) : ExecCase i s s
  | waits (hi : s.pc.running (encode i) = some i) (c : Call)
      (hc : s.pc.call s.params (encode i) = some c) (as : List Answer) (d : Nat) :
      ExecCase i s (await c { beforeCall s with answers := as, draws := d })
  | fails (hi : s.pc.running (encode i) = some i) (c : Call)
      (hc : s.pc.call s.params (encode i) = some c) (as : List Answer) (d : Nat) (e : TErr) :
      ExecCase i s (raise (.busError e)
        (record c (.err e) { beforeCall s with answers := as, draws := d }))
  | returns (hi : s.pc.running (encode i) = some i) (c : Call)
      (hc : s.pc.call s.params (encode i) = some c) (as : List Answer) (d : Nat) (bs : Burst) :
      ExecCase i s (afterOk s.pc bs
        (record c (.ok (c.yields bs)) { beforeCall s with answers := as, draws := d }))
  | sleeps (hi : s.pc.running (encode i) = some i) (hq : ∃ q, s.pc.measuring = some (q, .sleep))
      (hc : s.pc.call s.params (encode i) = some (.sleep pollInterval)) (ws : List Bool) (d : Nat) :
      ExecCase i s (await (.sleep pollInterval) { s with wakes := ws, draws := d })
  | wakes (hi : s.pc.running (encode i) = some i) (hq : ∃ q, s.pc.measuring = some (q, .sleep))
      (hc : s.pc.call s.params (encode i) = some (.sleep pollInterval)) (ws : List Bool) (d : Nat) :
      ExecCase i s { record (.sleep pollInterval) (.ok []) { s with wakes := ws, draws := d } with
        pc := nextPc s.pc }
  | internal (hi : s.pc.running (encode i) = some i) (t : State) (h : Internal s t) : ExecCase i s t

theorem exec_cases {i : Instr} {s t : State} (h : exec i s = .next t) : ExecCase i s t := by
  by_cases hp : s.pc = .idle
  · rw [exec_idle i hp] at h
    cases h
    exact .accepts hp
  by_cases hi : s.pc.running (encode i) = some i
  · cases exec_own hi with
    | calls c hc he =>
      rw [he] at h
      obtain ⟨as, d, hw | ⟨e, hw⟩ | ⟨bs, hw⟩⟩ := call_cases c (afterOk s.pc) (beforeCall s)
      · rw [hw] at h; cases h; exact .waits hi c hc as d
      · rw [hw] at h; cases h; exact .fails hi c hc as d e
      · rw [hw] at h; cases h; exact .returns hi c hc as d bs
    | sleeps hq hc he =>
      rw [he] at h
      obtain ⟨ws, d, hw | hw⟩ := sleepCall_cases (nextPc s.pc) s
      · rw [hw] at h; cases h; exact .sleeps hi hq hc ws d
      · rw [hw] at h; cases h; exact .wakes hi hq hc ws d
    | internal hc u he hu =>
      rw [he] at h
      cases h
      exact .internal hi _ hu
  · rw [exec_other hp hi] at h
    cases h
    exact .others hp hi

theorem commandCall_eq {i : Instr} {p : Pc} {params : Params} {c : Call}
    (hi : p.running (encode i) = some i) (hc : p.call params (encode i) = some c) :
    commandCall i p params = some c := by
  rw [commandCall, if_pos hi, hc]

/-! ## What every command leaves -/

section Frame

variable {i : Instr} {s t : State}

/-- A step that goes on, or waits, keeps the flags and `TERR`. -/
theorem sharedFrame_of_goesOn
    (h : t = { s with
      pc := t.pc, acc := t.acc, rb := t.rb, res := t.res, trace := t.trace, inFlight := t.inFlight
      answers := t.answers, wakes := t.wakes, draws := t.draws })
    (htr : t.trace = s.trace ∨
      ∃ c r, commandCall i s.pc s.params = some c ∧ t.trace = s.trace ++ [⟨c, r⟩])
    (hfl : t.inFlight = s.inFlight ∨ t.inFlight = none ∨
      ∃ c, commandCall i s.pc s.params = some c ∧ t.inFlight = some c) : SharedFrame i s t where
  params := by rw [h]
  port := by rw [h]
  resetReq := by rw [h]
  foreignUse := by rw [h]
  disturbed _ := by rw [h]
  cmd _ := by rw [h]
  terr := by rw [h]; exact .inl rfl
  flags _ _ := by rw [h]; exact ⟨rfl, rfl, rfl⟩
  trace := htr
  inFlight := hfl

/-- A step that ends the run writes the flags, `OK` and, for a bus error, `TERR`. -/
theorem sharedFrame_of_ends (hp : t.pc = .idle)
    (h : t = { s with
      pc := t.pc, acc := t.acc, busy := t.busy, done := t.done, ok := t.ok, err := t.err
      terr := t.terr, trace := t.trace, inFlight := t.inFlight, answers := t.answers
      draws := t.draws })
    (hte : t.terr = s.terr ∨ t.err = 2)
    (htr : t.trace = s.trace ∨
      ∃ c r, commandCall i s.pc s.params = some c ∧ t.trace = s.trace ++ [⟨c, r⟩])
    (hfl : t.inFlight = s.inFlight ∨ t.inFlight = none) : SharedFrame i s t where
  params := by rw [h]
  port := by rw [h]
  resetReq := by rw [h]
  foreignUse := by rw [h]
  disturbed _ := by rw [h]
  cmd _ := by rw [h]
  terr := hte
  flags _ hn := absurd hp hn
  trace := htr
  inFlight := hfl.imp_right .inl

theorem sharedFrame_of_accepts (hp : s.pc = .idle) :
    SharedFrame i s (accept (encode i) (firstPc i) s) where
  params := rfl
  port := rfl
  resetReq := rfl
  foreignUse := rfl
  disturbed hn := absurd hp hn
  cmd hn := absurd hp hn
  terr := .inl rfl
  flags hn := absurd hp hn
  trace := .inl rfl
  inFlight := .inl rfl

theorem sharedFrame_of_internal (h : Internal s t) : SharedFrame i s t := by
  cases internal_cases h with
  | identified | ready | notReady | converts =>
    exact sharedFrame_of_goesOn rfl (.inl rfl) (.inl rfl)
  | unknownDevice | ends | initEnds =>
    exact sharedFrame_of_ends rfl rfl (.inl rfl) (.inl rfl) (.inl rfl)

theorem sharedFrame (h : exec i s = .next t) : SharedFrame i s t := by
  cases exec_cases h with
  | accepts hp => exact sharedFrame_of_accepts hp
  | others => exact sharedFrame_of_goesOn rfl (.inl rfl) (.inl rfl)
  | waits hi c hc =>
    exact sharedFrame_of_goesOn rfl (.inl rfl) (.inr (.inr ⟨c, commandCall_eq hi hc, rfl⟩))
  | fails hi c hc =>
    exact sharedFrame_of_ends rfl rfl (.inr rfl) (.inr ⟨c, _, commandCall_eq hi hc, rfl⟩) (.inr rfl)
  | returns hi c hc =>
    exact sharedFrame_of_goesOn rfl (.inr ⟨c, _, commandCall_eq hi hc, rfl⟩) (.inr (.inl rfl))
  | sleeps hi _ hc =>
    exact sharedFrame_of_goesOn rfl (.inl rfl) (.inr (.inr ⟨_, commandCall_eq hi hc, rfl⟩))
  | wakes hi _ hc =>
    exact sharedFrame_of_goesOn rfl (.inr ⟨_, _, commandCall_eq hi hc, rfl⟩) (.inr (.inl rfl))
  | internal _ _ ht => exact sharedFrame_of_internal ht

/-! ## Which step of its own list lets a command write a register -/

theorem exec_trace (h : exec i s = .next t) :
    t.trace = s.trace ∨ ∃ c r, s.pc.running (encode i) = some i ∧
      s.pc.call s.params (encode i) = some c ∧ t.trace = s.trace ++ [⟨c, r⟩] := by
  refine (sharedFrame h).trace.imp_right ?_
  rintro ⟨c, r, hc, ht⟩
  rw [commandCall] at hc
  split at hc
  case isTrue hi => exact ⟨c, r, hi, hc, ht⟩
  case isFalse => cases hc

theorem exec_res (h : exec i s = .next t) :
    t.res = s.res ∨
      (s.pc.running (encode i) = some i ∧ ∃ q, s.pc.measuring = some (q, .convert)) := by
  cases exec_cases h with
  | accepts | others | waits | fails | returns | sleeps | wakes => exact .inl rfl
  | internal hi _ ht =>
    cases internal_cases ht with
    | identified | unknownDevice | ready | notReady | ends | initEnds => exact .inl rfl
    | converts q hp => exact .inr ⟨hi, q, measuring_eq_some.2 hp⟩

theorem exec_wakes (h : exec i s = .next t) :
    t.wakes = s.wakes ∨
      (s.pc.running (encode i) = some i ∧ ∃ q, s.pc.measuring = some (q, .sleep)) := by
  cases exec_cases h with
  | accepts | others | waits | fails | returns => exact .inl rfl
  | sleeps hi hq | wakes hi hq => exact .inr ⟨hi, hq⟩
  | internal _ _ ht => cases internal_cases ht <;> exact .inl rfl

theorem exec_rb (h : exec i s = .next t) :
    t.rb = s.rb ∨ (s.pc.running (encode i) = some i ∧ latchesRb s.pc = true) := by
  cases exec_cases h with
  | accepts | others | waits | fails | sleeps | wakes => exact .inl rfl
  | returns hi =>
    cases hl : latchesRb s.pc with
    | true => exact .inr ⟨hi, rfl⟩
    | false => exact .inl (by simp [afterOk, beforeCall, hl])
  | internal _ _ ht => cases internal_cases ht <;> exact .inl rfl

theorem exec_ok (h : exec i s = .next t) :
    t.ok = s.ok ∨ (i = .init ∧ (s.pc = .idle ∨ s.pc = .init .finish)) := by
  cases exec_cases h with
  | others | waits | fails | returns | sleeps | wakes => exact .inl rfl
  | accepts hp =>
    rw [accept_ok, okAccepted_encode]
    split
    case isTrue hi => exact .inr ⟨hi, .inl hp⟩
    case isFalse => exact .inl rfl
  | internal hi _ ht =>
    cases internal_cases ht with
    | identified | unknownDevice | ready | notReady | converts | ends => exact .inl rfl
    | initEnds hp =>
      rw [hp] at hi
      exact .inr ⟨(Option.some.inj hi).symm, .inr hp⟩

theorem exec_acc (h : exec i s = .next t) :
    t.acc = s.acc ∨ (s.pc.running (encode i) = some i ∧
      ∃ q, s.pc.measuring = some (q, .read .one) ∨ s.pc.measuring = some (q, .read .four)) := by
  have before (hi : s.pc.running (encode i) = some i) :
      (beforeCall s).acc = s.acc ∨ (s.pc.running (encode i) = some i ∧
        ∃ q, s.pc.measuring = some (q, .read .one) ∨ s.pc.measuring = some (q, .read .four)) :=
    or_iff_not_imp_left.2 fun hn => ⟨hi, (beforeCall_acc hn).imp fun _ hq => .inl hq.1⟩
  cases exec_cases h with
  | accepts | others | sleeps | wakes => exact .inl rfl
  | waits hi | fails hi => exact before hi
  | returns hi =>
    cases ha : assembles s.pc with
    | some q => exact .inr ⟨hi, q, .inr (assembles_spec ha)⟩
    | none => simpa [afterOk, ha] using before hi
  | internal _ _ ht => cases internal_cases ht <;> exact .inl rfl

end Frame

/-! ## The frames -/

/-- The step lists of `INIT`, `RDREG` and `WRREG` have no measurement step. -/
theorem measurement_of_measuring {i : Instr} {p : Pc} {x : Quantity × MeasStep}
    (hi : p.running (encode i) = some i) (hm : p.measuring = some x) :
    i = .getp ∨ i = .geta ∨ i = .gett := by
  obtain ⟨q, m⟩ := x
  rw [measuring_eq_some.1 hm] at hi
  cases q <;> cases hi <;> simp

/-- What only a measurement command writes. -/
theorem exec_measurement_only {i : Instr} {s t : State} (h : exec i s = .next t)
    (hi : ¬(i = .getp ∨ i = .geta ∨ i = .gett)) :
    t.res = s.res ∧ t.acc = s.acc ∧ t.wakes = s.wakes := by
  have no {x : Quantity × MeasStep} (hr : s.pc.running (encode i) = some i)
      (hm : s.pc.measuring = some x) : False := hi (measurement_of_measuring hr hm)
  refine ⟨(exec_res h).resolve_right ?_, (exec_acc h).resolve_right ?_,
    (exec_wakes h).resolve_right ?_⟩
  · exact fun ⟨hr, _, hm⟩ => no hr hm
  · exact fun ⟨hr, _, hm⟩ => hm.elim (no hr) (no hr)
  · exact fun ⟨hr, _, hm⟩ => no hr hm

theorem pc_of_running_rdreg {p : Pc} {w : CmdWord} {a : Byte} (h : p.running w = some (.rdreg a)) :
    ∃ st, p = .rdreg st := by
  cases p <;> simp [Pc.running] at h ⊢

theorem pc_of_running_wrreg {p : Pc} {w : CmdWord} {a d : Byte}
    (h : p.running w = some (.wrreg a d)) : ∃ st, p = .wrreg st := by
  cases p <;> simp [Pc.running] at h ⊢

/-- Settles O32: no step of `RDREG`'s list writes `RES`, `ACC` or `OK`, and one latches `RB`. -/
theorem rdregFrame : Obligations.RdregFrame := by
  intro a s t h
  obtain ⟨hres, hacc, hwakes⟩ := exec_measurement_only h (by simp)
  refine ⟨sharedFrame h, hres, hacc, (exec_ok h).resolve_right nofun, hwakes, fun hne => ?_, ?_⟩
  · refine (exec_rb h).resolve_right fun ⟨hi, hl⟩ => ?_
    obtain ⟨st, hp⟩ := pc_of_running_rdreg hi
    obtain hp' | hp' | ⟨q, hq⟩ := latchesRb_cases hl
    · cases hp.symm.trans hp'
    · exact hne hp'
    · simpa using measurement_of_measuring hi hq
  · refine (exec_trace h).imp_right fun ⟨c, r, hi, hc, ht⟩ => ?_
    obtain ⟨l | _, hp⟩ := pc_of_running_rdreg hi
    · rw [hp, Pc.call, encode, cmdA_cmdWord] at hc
      cases hc
      exact ⟨l, r, hp, ht⟩
    · rw [hp] at hc
      cases hc

/-- Settles O33: no step of `WRREG`'s list latches anything. -/
theorem wrregFrame : Obligations.WrregFrame := by
  intro a d s t h
  obtain ⟨hres, hacc, hwakes⟩ := exec_measurement_only h (by simp)
  refine ⟨sharedFrame h, hres, hacc, (exec_ok h).resolve_right nofun, hwakes, ?_, ?_⟩
  · refine (exec_rb h).resolve_right fun ⟨hi, hl⟩ => ?_
    obtain ⟨st, hp⟩ := pc_of_running_wrreg hi
    obtain hp' | hp' | ⟨q, hq⟩ := latchesRb_cases hl
    · cases hp.symm.trans hp'
    · cases hp.symm.trans hp'
    · simpa using measurement_of_measuring hi hq
  · refine (exec_trace h).imp_right fun ⟨c, r, hi, hc, ht⟩ => ?_
    obtain ⟨l | _, hp⟩ := pc_of_running_wrreg hi
    · rw [hp, Pc.call, encode, cmdA_cmdWord, cmdD_cmdWord] at hc
      cases hc
      exact ⟨l, r, hp, ht⟩
    · rw [hp] at hc
      cases hc

/-- Settles O34: `INIT`'s list latches `RB` at the identity read, and its last step sets `OK`. -/
theorem initFrame : Obligations.InitFrame := by
  intro s t h
  obtain ⟨hres, hacc, hwakes⟩ := exec_measurement_only h (by simp)
  refine ⟨sharedFrame h, hres, hacc, hwakes, fun hne => ?_, fun hidle hfin => ?_, ?_⟩
  · refine (exec_rb h).resolve_right fun ⟨hi, hl⟩ => ?_
    obtain ⟨st, hp⟩ := running_eq_init.1 hi
    obtain hp' | hp' | ⟨q, hq⟩ := latchesRb_cases hl
    · exact hne hp'
    · cases hp.symm.trans hp'
    · simpa using measurement_of_measuring hi hq
  · exact (exec_ok h).resolve_right fun ⟨_, hp⟩ => hp.elim hidle hfin
  · refine (exec_trace h).imp_right fun ⟨c, r, hi, hc, ht⟩ => ?_
    obtain ⟨st, hp⟩ := running_eq_init.1 hi
    rw [hp] at hc
    exact ⟨st, c, r, hp, hc, ht⟩

/-- Settles O35: the steps of a measurement that write `RES`, `ACC` or `RB` are those excepted. -/
theorem measurementFrame : Obligations.MeasurementFrame := by
  intro i s t hi h
  have hni : i ≠ .init := by rintro rfl; simp at hi
  refine ⟨sharedFrame h, (exec_ok h).resolve_right fun hn => hni hn.1, fun hne => ?_,
    fun hne1 hne4 => ?_, fun hne => ?_, fun q m hm => ?_⟩
  · exact (exec_res h).resolve_right fun ⟨_, q, hq⟩ => hne q hq
  · exact (exec_acc h).resolve_right fun ⟨_, q, hq⟩ => hq.elim (hne1 q) (hne4 q)
  · refine (exec_rb h).resolve_right fun ⟨hr, hl⟩ => ?_
    obtain hp | hp | ⟨q, hq⟩ := latchesRb_cases hl
    · rw [hp] at hr
      obtain rfl | rfl | rfl := hi <;> cases hr
    · rw [hp] at hr
      obtain rfl | rfl | rfl := hi <;> cases hr
    · exact hne q hq
  · refine (exec_trace h).imp_right fun ⟨c, r, _, hc, ht⟩ => ⟨c, r, ?_, ht⟩
    rwa [measuring_eq_some.1 hm, measPc_call] at hc

end Sys2Proof.Proofs
end

section
/-!
Proofs about single steps of the commands (spec 40_byte_transactions.md sections 3 and 4;
41_initialization.md; 42_measurement.md sections 1 and 2; 43_conversion.md section 1).
-/
namespace Sys2Proof.Proofs

open Sys2Proof.Machine Sys2Proof.Laws

/-! ## The meanings in their own steps -/

theorem exec_rdreg_xfer (a : Byte) {s : State} {l : Line} (hp : s.pc = .rdreg (.xfer l)) :
    exec (.rdreg a) s =
      .next (memReadByte a (fun k => .rdreg (.xfer k)) (.rdreg .finish) l s) := by
  rw [exec, execRdreg, hp]

theorem exec_wrreg_xfer (a d : Byte) {s : State} {l : Line} (hp : s.pc = .wrreg (.xfer l)) :
    exec (.wrreg a d) s =
      .next (memWrite a d (fun k => .wrreg (.xfer k)) (.wrreg .finish) l s) := by
  rw [exec, execWrreg, hp]

theorem exec_init_step {s : State} {st : InitStep} (hp : s.pc = .init st) :
    exec .init s = .next (initStep st s) := by
  rw [exec, execInit, hp]

/-- The command that measures a quantity (R130). -/
def measInstr : Quantity → Instr
  | .pressure => .getp
  | .altitude => .geta
  | .temperature => .gett

theorem exec_meas {q : Quantity} {m : MeasStep} {s : State} (hp : s.pc = measPc q m) :
    exec (measInstr q) s = .next (measureStep q (measPc q) m s) := by
  cases q <;> (simp only [measInstr, exec, execGetp, execGeta, execGett, hp, measPc]; rfl)

theorem measInstr_of_running {q : Quantity} {m : MeasStep} {w : CmdWord} {i : Instr}
    (hi : (measPc q m).running w = some i) : i = measInstr q := by
  cases q <;> cases hi <;> rfl

/-! ## Transfers and initialization -/

/-- Settles O36: the lines of `MemRead` and `MemWrite` with an `ok` answer, and the last steps. -/
theorem transactionCommandsComplete : Obligations.TransactionCommandsComplete := by
  refine ⟨fun s a bs as hp ha => ?_, fun s a d bs as hp ha => ?_, fun s a d bs as hp ha => ?_,
    fun s a hp => ?_, fun s a d hp => ?_, fun s hp => ?_⟩
  · rw [exec_rdreg_xfer a hp, memReadByte, memRead, call_ok _ _ ha]
    rfl
  · rw [exec_wrreg_xfer a d hp, memWrite, callThen, call_ok _ _ ha]
    rfl
  · rw [exec_wrreg_xfer a d hp, memWrite, callThen, call_ok _ _ ha]
    rfl
  · rw [exec, execRdreg, hp]
    rfl
  · rw [exec, execWrreg, hp]
    rfl
  · exact exec_init_step hp

/-- Settles O38: equality with 0xC4 is the test. -/
theorem identityCheckIsExact : Obligations.IdentityCheckIsExact := by
  intro s hp
  rw [exec_init_step hp, initStep]
  exact ⟨fun h => congrArg _ (initCheck_of_match h), fun h => congrArg _ (initCheck_of_mismatch h)⟩

/-! ## Measurements -/

/-- Settles O37: CONVERT and DONE of the three quantities. -/
theorem measurementsConvertAndEnd : Obligations.MeasurementsConvertAndEnd := fun _ =>
  ⟨exec_meas (q := .pressure), exec_meas (q := .altitude), exec_meas (q := .temperature),
    exec_meas (q := .pressure), exec_meas (q := .altitude), exec_meas (q := .temperature)⟩

/-- POLL.4, by the test written out (R132). -/
theorem pollTest_eq (q : Quantity) (here : MeasStep → Pc) (s : State) :
    pollTest q here s = { s with
      pc := if s.rb &&& readyMask q s.params ≠ 0 then here (.read .one) else here .sleep } := by
  simp only [pollTest, readySet, bne_iff_ne]
  split_ifs <;> rfl

theorem exec_test {q : Quantity} {s : State} (hp : s.pc = measPc q .test) :
    exec (measInstr q) s = .next { s with
      pc := if s.rb &&& readyMask q s.params ≠ 0 then measPc q (.read .one)
        else measPc q .sleep } := by
  rw [exec_meas hp, measureStep, pollTest_eq]

/-- Settles O39: the test of the three quantities' masks. -/
theorem pollTestsTheMaskedBit : Obligations.PollTestsTheMaskedBit := fun _ =>
  ⟨exec_test (q := .pressure), exec_test (q := .altitude), exec_test (q := .temperature)⟩

/-- READ.3 with an `ok` answer (R133, R150). -/
theorem exec_read_four {q : Quantity} {s : State} {bs : Burst} {as : List Answer}
    (hp : s.pc = measPc q (.read .four)) (ha : s.answers = .ok bs :: as) :
    exec (measInstr q) s = .next { s with
      acc := assemble (bs.bytes (burstLen q))
      answers := as
      trace := s.trace ++ [⟨.read devAddr (burstLen q), .ok (bs.bytes (burstLen q))⟩]
      inFlight := none
      pc := measPc q .convert } := by
  have ha' : (clearAcc .four s).answers = .ok bs :: as := ha
  rw [exec_meas hp, measureStep, readBurst, memRead, call_ok _ _ ha']
  rfl

/-- Settles O40: the assembled bytes as a concatenation, `assemble_three` and `assemble_two`. -/
theorem readClearsAndAssembles : Obligations.ReadClearsAndAssembles := by
  refine ⟨fun s bs as i q hi hq ha => ?_, fun s bs as hp ha => ?_, fun s bs as hp ha => ?_,
    fun s bs as hp ha => ?_⟩
  · have hp := measuring_eq_some.1 hq
    rw [hp] at hi
    have ha' : (clearAcc .one s).answers = .ok bs :: as := ha
    rw [measInstr_of_running hi, exec_meas hp, measureStep, readBurst, memRead, callThen,
      call_ok _ _ ha']
    exact ⟨_, rfl, rfl, measPc_measuring q _⟩
  · rw [← assemble_three]
    exact exec_read_four (q := .pressure) hp ha
  · rw [← assemble_three]
    exact exec_read_four (q := .altitude) hp ha
  · rw [← assemble_two]
    exact exec_read_four (q := .temperature) hp ha

end Sys2Proof.Proofs
end

section
/-!
Proofs about runs of several steps (spec 40_byte_transactions.md sections 3 and 4;
41_initialization.md): first acceptance and the two transactions of four calls, then the whole runs
of `RDREG`, `WRREG` and `INIT` put together from them.
-/
namespace Sys2Proof.Proofs

open Sys2Proof.Machine Sys2Proof.Laws

/-! ## Parts of a run -/

theorem runSteps_trans {m n : Nat} {s t u : State} (h : runSteps m s = .next t)
    (h' : runSteps n t = .next u) : runSteps (m + n) s = .next u :=
  (runSteps_add h).trans h'

theorem runSteps_one {s t : State} (h : step s = .next t) : runSteps 1 s = .next t :=
  runSteps_succ h

/-- An undisturbed idle machine that has accepted `i`, the words of `queue` still waiting (R24). -/
def accepted (i : Instr) (queue : List CmdWord) (s : State) : State :=
  { s with
    port := queue
    cmd := encode i
    busy := true
    done := false
    err := 0
    ok := if i = .init then false else s.ok
    pc := firstPc i }

theorem runSteps_accepts {i : Instr} {queue : List CmdWord} {s : State} (hu : s.Undisturbed)
    (hp : s.pc = .idle) (hport : s.port = encode i :: queue) :
    runSteps 1 s = .next (accepted i queue s) := by
  obtain ⟨hr, hf, hd⟩ := hu
  refine runSteps_one ((step_accepts hr hp hport (decode_encode i)).trans ?_)
  rw [accepted, ← okAccepted_encode, hd.trans hf.symm]
  rfl

/-- `s` further on in a transaction: at `p`, with these answers to come, this trace and this call in
progress. -/
def movedTo (s : State) (p : Pc) (as : List Answer) (tr : List Event) (fl : Option Call) : State :=
  { s with pc := p, answers := as, trace := tr, inFlight := fl }

theorem movedTo_self {s : State} {p : Pc} {as : List Answer} (hp : s.pc = p) (ha : s.answers = as) :
    s = movedTo s p as s.trace s.inFlight := by
  rw [← hp, ← ha, movedTo]

/-- One line of a transaction whose call returns `ok` (R105). -/
theorem runSteps_line {s : State} {c : Call} {p : Pc} {bs : Burst} {as : List Answer}
    (h : step s = .next (callThen c p s)) (ha : s.answers = .ok bs :: as) :
    runSteps 1 s = .next (movedTo s p as (s.trace ++ [⟨c, .ok (c.yields bs)⟩]) none) := by
  rw [runSteps_one h, callThen, call_ok _ _ ha]
  rfl

/-- A whole `MemRead(addr, n)` whose calls return `ok` (R100, R102). -/
theorem runSteps_memRead {s : State} {addr : Byte} {n : ReadCount} {here : Line → Pc}
    {after : Burst → State → State} {x : Acks} {as : List Answer}
    (h : ∀ l as tr fl, step (movedTo s (here l) as tr fl) =
      .next (memRead addr n here after l (movedTo s (here l) as tr fl)))
    (hp : s.pc = here .one) (ha : s.answers = x.answers ++ as) :
    runSteps 4 s = .next (after x.b4
      (movedTo s (here .four) as (s.trace ++ readShape addr n x.b4) none)) := by
  have ht : s.trace ++ readShape addr n x.b4 =
      s.trace ++ [⟨.start devAddr, .ok []⟩] ++ [⟨.write addr, .ok []⟩] ++ [⟨.endTx true, .ok []⟩] ++
        [⟨.read devAddr n, .ok (x.b4.bytes n)⟩] := by
    simp [readShape]
  have h1 := runSteps_line (s := movedTo s _ (x.answers ++ as) s.trace s.inFlight)
    (h .one _ _ _) rfl
  have h2 := runSteps_trans h1 (runSteps_line (h .two _ _ _) rfl)
  have h3 := runSteps_trans h2 (runSteps_line (h .three _ _ _) rfl)
  rw [ht]
  exact (congrArg (runSteps 4) (movedTo_self hp ha)).trans
    (runSteps_trans h3 (runSteps_one (h .four _ _ _)))

/-- A whole `MemWrite(addr, 1, v)` whose calls return `ok` (R101). -/
theorem runSteps_memWrite {s : State} {addr v : Byte} {here : Line → Pc} {next : Pc} {x : Acks}
    {as : List Answer}
    (h : ∀ l as tr fl, step (movedTo s (here l) as tr fl) =
      .next (memWrite addr v here next l (movedTo s (here l) as tr fl)))
    (hp : s.pc = here .one) (ha : s.answers = x.answers ++ as) :
    runSteps 4 s = .next (movedTo s next as (s.trace ++ writeShape addr v) none) := by
  have ht : s.trace ++ writeShape addr v =
      s.trace ++ [⟨.start devAddr, .ok []⟩] ++ [⟨.write addr, .ok []⟩] ++ [⟨.write v, .ok []⟩] ++
        [⟨.endTx false, .ok []⟩] := by
    simp [writeShape]
  have h1 := runSteps_line (s := movedTo s _ (x.answers ++ as) s.trace s.inFlight)
    (h .one _ _ _) rfl
  have h2 := runSteps_trans h1 (runSteps_line (h .two _ _ _) rfl)
  have h3 := runSteps_trans h2 (runSteps_line (h .three _ _ _) rfl)
  rw [ht]
  exact (congrArg (runSteps 4) (movedTo_self hp ha)).trans
    (runSteps_trans h3 (runSteps_line (h .four _ _ _) rfl))

/-- A whole `MemRead(addr, 1)`, whose byte `RB` latches (R100). -/
theorem runSteps_memReadByte {s : State} {addr : Byte} {here : Line → Pc} {next : Pc} {x : Acks}
    {as : List Answer}
    (h : ∀ l as tr fl, step (movedTo s (here l) as tr fl) =
      .next (memReadByte addr here next l (movedTo s (here l) as tr fl)))
    (hp : s.pc = here .one) (ha : s.answers = x.answers ++ as) :
    runSteps 4 s = .next
      (movedTo { s with rb := x.b4.b0 } next as (s.trace ++ readShape addr .one x.b4) none) :=
  runSteps_memRead h hp ha

/-! ## `RDREG` and `WRREG` whole -/

theorem step_rdreg_xfer {a : Byte} {s : State} {l : Line} (hu : s.Undisturbed)
    (hw : s.cmd = encode (.rdreg a)) (hp : s.pc = .rdreg (.xfer l)) :
    step s = .next (memReadByte a (fun k => .rdreg (.xfer k)) (.rdreg .finish) l s) := by
  rw [step_running (i := .rdreg a) hu (by simp [hp, hw, Pc.running, encode]), exec_rdreg_xfer a hp]

theorem step_wrreg_xfer {a d : Byte} {s : State} {l : Line} (hu : s.Undisturbed)
    (hw : s.cmd = encode (.wrreg a d)) (hp : s.pc = .wrreg (.xfer l)) :
    step s = .next (memWrite a d (fun k => .wrreg (.xfer k)) (.wrreg .finish) l s) := by
  rw [step_running (i := .wrreg a d) hu (by simp [hp, hw, Pc.running, encode]),
    exec_wrreg_xfer a d hp]

/-- Settles O41: acceptance, a `MemRead(a, 1)`, RDREG.4. -/
theorem rdregReadsOneRegister : Obligations.RdregReadsOneRegister := by
  intro s a x as queue hu hp hport ha
  have hread := runSteps_memReadByte (s := accepted (.rdreg a) queue s) (x := x)
    (fun _ _ _ _ => step_rdreg_xfer (a := a) hu rfl rfl) rfl ha
  rw [hp]
  exact runSteps_trans (runSteps_trans (runSteps_accepts hu hp hport) hread)
    (runSteps_one (step_internal hu (.rdregFinish rfl)))

/-- Settles O42: acceptance, a `MemWrite(a, 1, d)`, WRREG.4. -/
theorem wrregWritesOneRegister : Obligations.WrregWritesOneRegister := by
  intro s a d x as queue hu hp hport ha
  have hwrite := runSteps_memWrite (s := accepted (.wrreg a d) queue s) (x := x)
    (fun _ _ _ _ => step_wrreg_xfer (a := a) (d := d) hu rfl rfl) rfl ha
  rw [hp]
  exact runSteps_trans (runSteps_trans (runSteps_accepts hu hp hport) hwrite)
    (runSteps_one (step_internal hu (.wrregFinish rfl)))

/-! ## `INIT` whole -/

theorem step_init {s : State} {st : InitStep} (hu : s.Undisturbed) (hp : s.pc = .init st) :
    step s = .next (initStep st s) := by
  rw [step_running hu (by rw [hp]; rfl), exec_init_step hp]

theorem step_identified {s : State} (hu : s.Undisturbed) (hp : s.pc = .init .check)
    (hr : s.rb = idExpected) : step s = .next { s with pc := .init (.ctrlWrite .one) } := by
  rw [step_internal hu (.check hp), initCheck_of_match hr]

theorem step_unknownDevice {s : State} (hu : s.Undisturbed) (hp : s.pc = .init .check)
    (hr : s.rb ≠ idExpected) : step s = .next (raise .deviceNotFound s) := by
  rw [step_internal hu (.check hp), initCheck_of_mismatch hr]

theorem runSteps_idRead {s : State} {x : Acks} {as : List Answer} (hu : s.Undisturbed)
    (hp : s.pc = .init (.idRead .one)) (ha : s.answers = x.answers ++ as) :
    runSteps 4 s = .next (movedTo { s with rb := x.b4.b0 } (.init .check) as
      (s.trace ++ readShape regId .one x.b4) none) :=
  runSteps_memReadByte (here := fun k => .init (.idRead k))
    (fun l _ _ _ => step_init (st := .idRead l) hu rfl) hp ha

theorem runSteps_ctrlWrite {s : State} {x : Acks} {as : List Answer} (hu : s.Undisturbed)
    (hp : s.pc = .init (.ctrlWrite .one)) (ha : s.answers = x.answers ++ as) :
    runSteps 4 s = .next (movedTo s (.init (.evcfgWrite .one)) as
      (s.trace ++ writeShape regCtrl1 cwInit) none) :=
  runSteps_memWrite (here := fun k => .init (.ctrlWrite k))
    (fun l _ _ _ => step_init (st := .ctrlWrite l) hu rfl) hp ha

theorem runSteps_evcfgWrite {s : State} {x : Acks} {as : List Answer} (hu : s.Undisturbed)
    (hp : s.pc = .init (.evcfgWrite .one)) (ha : s.answers = x.answers ++ as) :
    runSteps 4 s = .next (movedTo s (.init .finish) as
      (s.trace ++ writeShape regEvcfg s.params.evcfgInit) none) :=
  runSteps_memWrite (here := fun k => .init (.evcfgWrite k))
    (fun l _ _ _ => step_init (st := .evcfgWrite l) hu rfl) hp ha

/-- `INIT` up to its identity check, where `RB` holds the byte read from REG_ID (R120). -/
theorem runSteps_identify {s : State} {b : Burst} {x : Acks} {as : List Answer}
    {queue : List CmdWord} (hu : s.Undisturbed) (hp : s.pc = .idle)
    (hport : s.port = encode .init :: queue) (ha : s.answers = .ok b :: (x.answers ++ as)) :
    runSteps 6 s = .next (movedTo { accepted .init queue s with rb := x.b4.b0 } (.init .check) as
      (s.trace ++ [⟨.begin, .ok []⟩] ++ readShape regId .one x.b4) none) :=
  have hbegin := runSteps_line (step_init (s := accepted .init queue s) hu rfl) ha
  runSteps_trans (runSteps_trans (runSteps_accepts hu hp hport) hbegin) (runSteps_idRead hu rfl rfl)

/-- Settles O44: the identity check ends the run. -/
theorem initWritesNothingToWrongDevice : Obligations.InitWritesNothingToWrongDevice := by
  intro s b x as queue hu hp hport ha hid
  rw [hp]
  exact runSteps_trans (runSteps_identify hu hp hport ha)
    (runSteps_one (step_unknownDevice hu rfl hid))

/-- Settles O43: the identity check lets the run go on to its writes. -/
theorem initConfiguresPresentDevice : Obligations.InitConfiguresPresentDevice := by
  intro s b x y z as queue hu hp hport ha hid
  rw [List.append_assoc, List.append_assoc] at ha
  rw [hp, ← hid]
  have hid' := runSteps_trans (runSteps_identify hu hp hport ha)
    (runSteps_one (step_identified hu rfl hid))
  exact runSteps_trans
    (runSteps_trans (runSteps_trans hid' (runSteps_ctrlWrite (x := y) hu rfl rfl))
      (runSteps_evcfgWrite (x := z) hu rfl rfl))
    (runSteps_one (step_internal hu (.initFinish rfl)))

end Sys2Proof.Proofs
end

section
/-!
Proofs about whole measurements (spec 42_measurement.md sections 1 and 2; 90_conflicts.md C2): the
poll by induction over the polls that find the bit clear, then the burst and the conversion.
-/
namespace Sys2Proof.Proofs

open Sys2Proof.Machine Sys2Proof.Laws

/-! ## The poll -/

theorem runSteps_statusRead {q : Quantity} {s : State} {x : Acks} {as : List Answer}
    (hu : s.Undisturbed) (hp : s.pc = measPc q (.poll .one)) (ha : s.answers = x.answers ++ as) :
    runSteps 4 s = .next (movedTo { s with rb := x.b4.b0 } (measPc q .test) as
      (s.trace ++ readShape regStatus .one x.b4) none) :=
  runSteps_memReadByte (here := fun k => measPc q (.poll k))
    (fun l _ _ _ => step_meas (m := .poll l) hu rfl) hp ha

theorem step_ready {q : Quantity} {s : State} (hu : s.Undisturbed) (hp : s.pc = measPc q .test)
    (hr : readySet s.rb (readyMask q s.params) = true) :
    step s = .next { s with pc := measPc q (.read .one) } := by
  rw [step_meas hu hp, measureStep, pollTest, if_pos hr]

theorem step_notReady {q : Quantity} {s : State} (hu : s.Undisturbed) (hp : s.pc = measPc q .test)
    (hr : readySet s.rb (readyMask q s.params) = false) :
    step s = .next { s with pc := measPc q .sleep } := by
  rw [step_meas hu hp, measureStep, pollTest, if_neg (by simp [hr])]

/-- One poll that finds the bit clear: `R(0x00, 1) ; S(10)`, and back to POLL.0 (R132). -/
theorem runSteps_notReady {q : Quantity} {s : State} {x : Acks} {as : List Answer} {ws : List Bool}
    (hu : s.Undisturbed) (hp : s.pc = measPc q (.poll .one)) (ha : s.answers = x.answers ++ as)
    (hw : s.wakes = true :: ws) (hr : readySet x.b4.b0 (readyMask q s.params) = false) :
    runSteps 6 s = .next { s with
      rb := x.b4.b0
      answers := as
      wakes := ws
      trace := s.trace ++ readShape regStatus .one x.b4 ++ [sleepEvent]
      inFlight := none } := by
  have hsleep := runSteps_trans (runSteps_trans (runSteps_statusRead hu hp ha)
    (runSteps_one (step_notReady hu rfl hr))) (runSteps_one (step_wakes hu rfl hw))
  rw [hsleep, ← hp]
  rfl

/-- Any number of polls that find the bit clear (R138, R174). The first call of the poll takes the
place of whatever call was in progress. -/
theorem runSteps_polls {q : Quantity} (polls : List Acks) {s : State} {as : List Answer}
    {ws : List Bool} (hu : s.Undisturbed) (hp : s.pc = measPc q (.poll .one))
    (ha : s.answers = polls.flatMap Acks.answers ++ as)
    (hw : s.wakes = List.replicate polls.length true ++ ws)
    (hr : ∀ p ∈ polls, readySet p.b4.b0 (readyMask q s.params) = false) :
    runSteps (6 * polls.length) s = .next { s with
      rb := lastStatus polls s.rb
      answers := as
      wakes := ws
      trace := s.trace ++ notReadyTrace polls
      inFlight := if polls = [] then s.inFlight else none } := by
  induction polls generalizing s with
  | nil =>
    obtain rfl : s.answers = as := ha
    obtain rfl : s.wakes = ws := hw
    simp [runSteps, lastStatus, notReadyTrace]
  | cons p ps ih =>
    have ha' : s.answers = p.answers ++ (ps.flatMap Acks.answers ++ as) := by simp [ha]
    have hfirst := runSteps_notReady hu hp ha' hw (hr p List.mem_cons_self)
    have hlen : 6 * (p :: ps).length = 6 + 6 * ps.length := by
      rw [List.length_cons]
      omega
    rw [hlen, runSteps_trans hfirst
      (ih hu hp rfl rfl fun x hx => hr x (List.mem_cons_of_mem p hx))]
    simp [lastStatus, notReadyTrace]

/-- Settles O49, by induction over the polls. -/
theorem notReadyDeviceKeepsPolling : Obligations.NotReadyDeviceKeepsPolling := by
  intro s q polls as ws hu hq hfl ha hw hr
  rw [runSteps_polls polls hu (measuring_eq_some.1 hq) ha hw hr, hfl, ite_self, ← hfl]

/-! ## The burst -/

theorem runSteps_congr {n : Nat} {s t : State} (h : step s = step t) :
    runSteps (n + 1) s = runSteps (n + 1) t := by
  simp only [runSteps, h]

/-- READ.0 to .3: `ACC` is cleared, then holds the burst (R133, R150). -/
theorem runSteps_burst {q : Quantity} {s : State} {x : Acks} {as : List Answer} (hu : s.Undisturbed)
    (hp : s.pc = measPc q (.read .one)) (ha : s.answers = x.answers ++ as) :
    runSteps 4 s = .next (movedTo { s with acc := assemble (x.b4.bytes (burstLen q)) }
      (measPc q .convert) as (s.trace ++ readShape (burstAddr q) (burstLen q) x.b4) none) := by
  have hclear : step s = step { s with acc := 0 } := by
    rw [step_meas hu hp, step_meas (s := { s with acc := 0 }) hu hp]
    rfl
  have hline (l : Line) (as' : List Answer) (tr : List Event) (fl : Option Call) :
      clearAcc l (movedTo { s with acc := 0 } (measPc q (.read l)) as' tr fl) =
        movedTo { s with acc := 0 } (measPc q (.read l)) as' tr fl := by
    cases l <;> rfl
  rw [runSteps_congr hclear]
  refine runSteps_memRead (s := { s with acc := 0 }) (here := fun k => measPc q (.read k))
    (after := fun bs t =>
      { t with acc := assemble (bs.bytes (burstLen q)), pc := measPc q .convert })
    (fun l as' tr fl => ?_) hp ha
  have hs := step_meas (q := q) (m := .read l)
    (s := movedTo { s with acc := 0 } (measPc q (.read l)) as' tr fl) hu rfl
  rwa [measureStep, readBurst, hline] at hs

/-- CONVERT and DONE (R134). -/
theorem runSteps_convert {q : Quantity} {s : State} (hu : s.Undisturbed)
    (hp : s.pc = measPc q .convert) :
    runSteps 2 s =
      .next { s with res := convert q s.acc, busy := false, done := true, pc := .idle } :=
  have hconvert := step_internal hu (.convert q hp)
  runSteps_trans (runSteps_one hconvert) (runSteps_one (step_internal hu (.measFinish q rfl)))

/-! ## A measurement from its first poll -/

/-- The poll that finds the bit set, the burst, CONVERT and DONE (R132 to R134). -/
theorem runSteps_readyPoll {q : Quantity} {s : State} {ready data : Acks} {as : List Answer}
    (hu : s.Undisturbed) (hp : s.pc = measPc q (.poll .one))
    (ha : s.answers = ready.answers ++ (data.answers ++ as))
    (hr : readySet ready.b4.b0 (readyMask q s.params) = true) :
    runSteps (5 + 4 + 2) s = .next { s with
      pc := .idle
      rb := ready.b4.b0
      acc := assemble (data.b4.bytes (burstLen q))
      res := convert q (assemble (data.b4.bytes (burstLen q)))
      busy := false
      done := true
      inFlight := none
      answers := as
      trace := s.trace ++ readShape regStatus .one ready.b4 ++
        readShape (burstAddr q) (burstLen q) data.b4 } :=
  have hpoll := runSteps_trans (runSteps_statusRead hu hp ha) (runSteps_one (step_ready hu rfl hr))
  runSteps_trans (runSteps_trans hpoll (runSteps_burst (x := data) hu rfl rfl))
    (runSteps_convert hu rfl)

/-- A measurement after ARM: the polls that find the bit clear, the one that finds it set, and the
rest (R130). -/
theorem runSteps_measure {q : Quantity} {s : State} {ready data : Acks} (polls : List Acks)
    {as : List Answer} {ws : List Bool} (hu : s.Undisturbed) (hp : s.pc = measPc q (.poll .one))
    (ha : s.answers = polls.flatMap Acks.answers ++ (ready.answers ++ (data.answers ++ as)))
    (hw : s.wakes = List.replicate polls.length true ++ ws)
    (hn : ∀ p ∈ polls, p.b4.b0 &&& readyMask q s.params = 0)
    (hr : ready.b4.b0 &&& readyMask q s.params ≠ 0) :
    runSteps (6 * polls.length + (5 + 4 + 2)) s = .next { s with
      pc := .idle
      rb := ready.b4.b0
      acc := assemble (data.b4.bytes (burstLen q))
      res := convert q (assemble (data.b4.bytes (burstLen q)))
      busy := false
      done := true
      inFlight := none
      answers := as
      wakes := ws
      trace := s.trace ++ notReadyTrace polls ++ readShape regStatus .one ready.b4 ++
        readShape (burstAddr q) (burstLen q) data.b4 } := by
  have hclear (p : Acks) (h : p ∈ polls) : readySet p.b4.b0 (readyMask q s.params) = false := by
    simp [readySet, hn p h]
  have hset : readySet ready.b4.b0 (readyMask q s.params) = true := bne_iff_ne.2 hr
  exact runSteps_trans (runSteps_polls polls hu hp ha hw hclear) (runSteps_readyPoll hu hp rfl hset)

/-! ## The three measurements -/

/-- ARM of `GETP` and `GETA`: one write of the command's control word (R131). -/
theorem runSteps_armBar {s : State} {x : Acks} {as : List Answer} (hu : s.Undisturbed)
    (hp : s.pc = .getp (.arm .one)) (ha : s.answers = x.answers ++ as) :
    runSteps 4 s = .next (movedTo s (measPc .pressure (.poll .one)) as
      (s.trace ++ writeShape regCtrl1 s.params.cwArmBar) none) :=
  runSteps_memWrite (here := fun k => .getp (.arm k))
    (fun _ _ _ _ => step_running (i := .getp) hu rfl) hp ha

theorem runSteps_armAlt {s : State} {x : Acks} {as : List Answer} (hu : s.Undisturbed)
    (hp : s.pc = .geta (.arm .one)) (ha : s.answers = x.answers ++ as) :
    runSteps 4 s = .next (movedTo s (measPc .altitude (.poll .one)) as
      (s.trace ++ writeShape regCtrl1 cwArmAlt) none) :=
  runSteps_memWrite (here := fun k => .geta (.arm k))
    (fun _ _ _ _ => step_running (i := .geta) hu rfl) hp ha

/-- Settles O45: acceptance, ARM, and the measurement of pressure. -/
theorem getpMeasuresPressure : Obligations.GetpMeasuresPressure := by
  intro s arm ready data polls as ws queue hu hp hport ha hw hn hr
  have hlen : 1 + 4 + 6 * polls.length + 5 + 4 + 2 = 1 + 4 + (6 * polls.length + (5 + 4 + 2)) := by
    omega
  rw [hlen, hp]
  exact runSteps_trans (runSteps_trans (runSteps_accepts hu hp hport) (runSteps_armBar hu rfl ha))
    (runSteps_measure (q := .pressure) polls hu rfl rfl hw hn hr)

/-- Settles O46: acceptance, ARM, and the measurement of altitude. -/
theorem getaMeasuresAltitude : Obligations.GetaMeasuresAltitude := by
  intro s arm ready data polls as ws queue hu hp hport ha hw hn hr
  have hlen : 1 + 4 + 6 * polls.length + 5 + 4 + 2 = 1 + 4 + (6 * polls.length + (5 + 4 + 2)) := by
    omega
  rw [hlen, hp]
  exact runSteps_trans (runSteps_trans (runSteps_accepts hu hp hport) (runSteps_armAlt hu rfl ha))
    (runSteps_measure (q := .altitude) polls hu rfl rfl hw hn hr)

/-- Settles O47: acceptance, and the measurement of temperature at once. -/
theorem gettMeasuresTemperature : Obligations.GettMeasuresTemperature := by
  intro s ready data polls as ws queue hu hp hport ha hw hn hr
  have hlen : 1 + 6 * polls.length + 5 + 4 + 2 = 1 + (6 * polls.length + (5 + 4 + 2)) := by omega
  rw [hlen, hp]
  exact runSteps_trans (runSteps_accepts hu hp hport)
    (runSteps_measure (q := .temperature) polls hu rfl ha hw hn hr)

end Sys2Proof.Proofs
end

section
/-!
Proof about the fixed-point-to-float converter (spec 43_conversion.md R157): the bit-level form that
the spec derives.
-/
namespace Sys2Proof.Proofs

open Sys2Proof.Machine Sys2Proof.Laws

/-- The fraction field is `M` below its leading 1, left-aligned (R157). -/
theorem fracField_fix2f_mod (sign : Bool) {m : BitVec 20} {f : Nat} (h : m ≠ 0) (hf : f ≤ 4) :
    fracField (fix2f sign m f) = m.toNat * 2 ^ (23 - topBit m) % 2 ^ 23 := by
  obtain ⟨hl, hu⟩ := aligned_bounds m h
  have := fracField_fix2f sign h hf
  omega

/-- Settles O56: `k` is `topBit M`, and the fields are those of the pattern built from it. -/
theorem fixedPointToFloatExact : Obligations.FixedPointToFloatExact := by
  refine ⟨fun sign m f hf => ⟨?_, fun h => ?_, f32Value_fix2f sign m hf⟩, fun v => ?_, by decide⟩
  · rintro rfl
    exact fix2f_zero sign f
  · obtain ⟨hk, hl, hu⟩ := topBit_spec m h
    exact ⟨topBit m, hl, hu, expField_fix2f sign h hf, by omega, fracField_fix2f_mod sign h hf,
      signBit_fix2f sign h hf⟩
  · obtain ⟨hl, hu⟩ := signExtendA_toInt_bounds v
    exact sign_mul_magnitude _ hl hu

end Sys2Proof.Proofs
end

section
/-!
Proofs about what no step depends on (spec 10_state.md section 3, R30; 70_reset_and_hazards.md
section 3, R192): two states that agree but for registers the next steps do not read make the same
steps, and each register is then the same in both or what it was.
-/
namespace Sys2Proof.Proofs

open Sys2Proof.Machine Sys2Proof.Laws

/-! ## States that agree -/

/-- The steps that test `RB`: INIT.5 (R121) and POLL.4 (R132). -/
def testsRb : Pc → Bool
  | .init .check => true
  | p => match p.measuring with
    | some (_, .test) => true
    | _ => false

/-- The states differ in registers and flags only, and not in `CMD` during a run, in `RB` where it
is tested, or in `ACC` where it is converted. -/
structure Agree (s s' : State) : Prop where
  same : s' = { s with
    acc := s'.acc, rb := s'.rb, res := s'.res, cmd := s'.cmd, busy := s'.busy, done := s'.done
    ok := s'.ok, err := s'.err, terr := s'.terr }
  cmd : s.pc ≠ .idle → s'.cmd = s.cmd
  rb : testsRb s.pc = true → s'.rb = s.rb
  acc : ∀ q, s.pc.measuring = some (q, .convert) → s'.acc = s.acc

/-- Each register is the same in `t` and `t'`, or in each what it was in `s` and `s'`; the latter is
the rule, to which a step names its exceptions. -/
structure Settled (s s' t t' : State) : Prop where
  acc : SameOrKept State.acc s s' t t' := by exact .inr ⟨rfl, rfl⟩
  rb : SameOrKept State.rb s s' t t' := by exact .inr ⟨rfl, rfl⟩
  res : SameOrKept State.res s s' t t' := by exact .inr ⟨rfl, rfl⟩
  cmd : SameOrKept State.cmd s s' t t' := by exact .inr ⟨rfl, rfl⟩
  busy : SameOrKept State.busy s s' t t' := by exact .inr ⟨rfl, rfl⟩
  done : SameOrKept State.done s s' t t' := by exact .inr ⟨rfl, rfl⟩
  ok : SameOrKept State.ok s s' t t' := by exact .inr ⟨rfl, rfl⟩
  err : SameOrKept State.err s s' t t' := by exact .inr ⟨rfl, rfl⟩
  terr : SameOrKept State.terr s s' t t' := by exact .inr ⟨rfl, rfl⟩

/-- `s'` makes a step to a state that agrees with `t`, the one `s` makes. -/
def Follows (s s' t : State) : Prop :=
  ∃ t', step s' = .next t' ∧ Agree t t' ∧ Settled s s' t t'

theorem sameOrKept_trans {α : Type} {x : State → α} {s s' u u' t t' : State}
    (h : SameOrKept x s s' u u') (h' : SameOrKept x u u' t t') : SameOrKept x s s' t t' := by
  obtain hs | ⟨ht, ht'⟩ := h'
  · exact .inl hs
  · exact h.imp (fun hu => ht'.trans (hu.trans ht.symm))
      fun ⟨hu, hu'⟩ => ⟨ht.trans hu, ht'.trans hu'⟩

theorem Settled.trans {s s' u u' t t' : State} (h : Settled s s' u u') (h' : Settled u u' t t') :
    Settled s s' t t' where
  acc := sameOrKept_trans h.acc h'.acc
  rb := sameOrKept_trans h.rb h'.rb
  res := sameOrKept_trans h.res h'.res
  cmd := sameOrKept_trans h.cmd h'.cmd
  busy := sameOrKept_trans h.busy h'.busy
  done := sameOrKept_trans h.done h'.done
  ok := sameOrKept_trans h.ok h'.ok
  err := sameOrKept_trans h.err h'.err
  terr := sameOrKept_trans h.terr h'.terr

section Step

variable {s s' t : State}

theorem Agree.pc (h : Agree s s') : s'.pc = s.pc := by rw [h.same]
theorem Agree.params (h : Agree s s') : s'.params = s.params := by rw [h.same]
theorem Agree.port (h : Agree s s') : s'.port = s.port := by rw [h.same]
theorem Agree.resetReq (h : Agree s s') : s'.resetReq = s.resetReq := by rw [h.same]
theorem Agree.answers (h : Agree s s') : s'.answers = s.answers := by rw [h.same]
theorem Agree.wakes (h : Agree s s') : s'.wakes = s.wakes := by rw [h.same]
theorem Agree.draws (h : Agree s s') : s'.draws = s.draws := by rw [h.same]
theorem Agree.foreignUse (h : Agree s s') : s'.foreignUse = s.foreignUse := by rw [h.same]
theorem Agree.disturbed (h : Agree s s') : s'.disturbed = s.disturbed := by rw [h.same]

theorem Agree.undisturbed (h : Agree s s') (hu : s.Undisturbed) : s'.Undisturbed :=
  ⟨h.resetReq.trans hu.1, h.foreignUse.trans hu.2.1, h.disturbed.trans hu.2.2⟩

theorem Agree.nextCall (h : Agree s s') {c : Call} (hc : s.nextCall = some c) :
    s'.nextCall = some c := by
  rwa [State.nextCall, h.pc, h.params, h.cmd (call_ne_idle hc)]

/-- At `IDLE` nothing is asked of the registers. -/
theorem agree_of_idle {u u' : State} (hp : u.pc = .idle)
    (hs : u' = { u with
      acc := u'.acc, rb := u'.rb, res := u'.res, cmd := u'.cmd, busy := u'.busy, done := u'.done
      ok := u'.ok, err := u'.err, terr := u'.terr }) : Agree u u' where
  same := hs
  cmd hn := absurd hp hn
  rb ht := by rw [hp] at ht; cases ht
  acc q hq := by rw [hp] at hq; cases hq

/-! ## Reset and acceptance -/

theorem applyReset_of_agree (h : Agree s s') : applyReset s' = applyReset s := by
  rw [h.same]
  obtain ⟨_, _, _, _, _, _, _, _, _, _, _, inFlight⟩ := s
  cases inFlight <;> rfl

theorem follows_reset (h : Agree s s') (hr : s.resetReq = true) : Follows s s' (applyReset s) :=
  ⟨applyReset s, by rw [step_reset (h.resetReq.trans hr), applyReset_of_agree h],
    agree_of_idle rfl rfl,
    ⟨.inl rfl, .inl rfl, .inl rfl, .inl rfl, .inl rfl, .inl rfl, .inl rfl, .inl rfl, .inl rfl⟩⟩

theorem step_idles (hr : s.resetReq = false) (hp : s.pc = .idle) (h : s.port = []) :
    step s = .next s := by
  simp [step, sequencerStep, idleStep, hr, hp, h, Pc.running]

theorem okAccepted_sameOrKept (w : CmdWord) (b b' : Bool) :
    okAccepted w b' = okAccepted w b ∨ (okAccepted w b = b ∧ okAccepted w b' = b') := by
  unfold okAccepted
  split
  · exact .inl rfl
  · exact .inr ⟨rfl, rfl⟩

@[simp] theorem testsRb_measPc (q : Quantity) (m : MeasStep) :
    testsRb (measPc q m) = decide (m = .test) := by
  cases q <;> cases m <;> rfl

theorem testsRb_firstPc (i : Instr) : testsRb (firstPc i) = false := by
  cases i <;> rfl

theorem follows_accepts (h : Agree s s') (hr : s.resetReq = false) (hp : s.pc = .idle)
    {w : CmdWord} {ws : List CmdWord} (hw : s.port = w :: ws) {i : Instr} (hd : decode w = .ok i) :
    Follows s s' (accept (encode i) (firstPc i) { s with port := ws }) := by
  refine ⟨_, step_accepts (h.resetReq.trans hr) (h.pc.trans hp) (h.port.trans hw) hd, ?_, ?_⟩
  · exact {
      same := by rw [h.same]; rfl
      cmd := fun _ => rfl
      rb := fun ht => absurd (ht.symm.trans (testsRb_firstPc i)) nofun
      acc := fun q hq => by cases firstPc_measuring hq }
  · exact {
      cmd := .inl rfl, busy := .inl rfl, done := .inl rfl, err := .inl rfl
      ok := okAccepted_sameOrKept _ s.ok s'.ok }

theorem follows_refuses (h : Agree s s') (hr : s.resetReq = false) (hp : s.pc = .idle)
    {w : CmdWord} {ws : List CmdWord} (hw : s.port = w :: ws) {x : Reserved}
    (hd : decode w = .error x) : Follows s s' (acceptReserved w { s with port := ws }) :=
  ⟨_, step_refuses (h.resetReq.trans hr) (h.pc.trans hp) (h.port.trans hw) hd,
    agree_of_idle rfl (by rw [h.same]; rfl),
    { cmd := .inl rfl, busy := .inl rfl, done := .inl rfl, err := .inl rfl
      ok := okAccepted_sameOrKept w s.ok s'.ok }⟩

/-! ## Calls -/

/-- The answer to a call does not depend on the registers (R64). -/
theorem takeAnswer_of_agree (ha : s'.answers = s.answers) (hd : s'.draws = s.draws) :
    ∃ a as d, takeAnswer s = (a, { s with answers := as, draws := d }) ∧
      takeAnswer s' = (a, { s' with answers := as, draws := d }) := by
  cases h : s.answers with
  | cons a as => exact ⟨a, as, s.draws, by simp [takeAnswer, h], by simp [takeAnswer, ha, h, ← hd]⟩
  | nil =>
    exact ⟨Config.freeAnswer s.draws, [], s.draws + 1, by simp only [takeAnswer, h],
      by simp only [takeAnswer, ha, h, hd]⟩

theorem takeWake_of_agree (ha : s'.wakes = s.wakes) (hd : s'.draws = s.draws) :
    ∃ w ws d, takeWake s = (w, { s with wakes := ws, draws := d }) ∧
      takeWake s' = (w, { s' with wakes := ws, draws := d }) := by
  cases h : s.wakes with
  | cons w ws => exact ⟨w, ws, s.draws, by simp [takeWake, h], by simp [takeWake, ha, h, ← hd]⟩
  | nil =>
    exact ⟨Config.freeWake s.draws, [], s.draws + 1, by simp only [takeWake, h],
      by simp only [takeWake, ha, h, hd]⟩

/-- A step that tests `RB` comes after one that has latched it. -/
theorem latchesRb_of_testsRb {p : Pc} (hm : nextPc p ≠ p) (ht : testsRb (nextPc p) = true) :
    latchesRb p = true := by
  rcases p with _ | (_ | l | _ | l | l | _) | (l | l | _ | _ | l | _ | _) |
      (l | l | _ | _ | l | _ | _) | (l | _ | _ | l | _ | _) | (l | _) | (l | _) <;> first
    | exact absurd rfl hm
    | cases ht
    | (cases l <;> first | rfl | cases ht)

theorem beforeCall_sameOrKept (h : Agree s s') :
    SameOrKept State.acc s s' (beforeCall s) (beforeCall s') := by
  unfold SameOrKept beforeCall
  rw [h.pc]
  split
  · exact .inl rfl
  · exact .inr ⟨rfl, rfl⟩

theorem follows_call (h : Agree s s') (hu : s.Undisturbed) {c : Call} (hc : s.nextCall = some c)
    (hn : ∀ ms, c ≠ .sleep ms) (e : step s = .next t) : Follows s s' t := by
  have hacc := beforeCall_sameOrKept h
  have hstep' := step_call (h.undisturbed hu) (h.nextCall hc) hn
  obtain ⟨a, as, d, ha, ha'⟩ := takeAnswer_of_agree (s := beforeCall s) (s' := beforeCall s')
    h.answers h.draws
  rw [step_call hu hc hn, call, ha] at e
  rw [call, ha', h.pc] at hstep'
  cases a with
  | pending =>
    cases e
    refine ⟨_, hstep', ⟨by rw [h.same]; rfl, h.cmd, h.rb, fun q hq => ?_⟩, { acc := hacc }⟩
    cases hc.symm.trans (measuring_nextCall hq)
  | err x =>
    cases e
    exact ⟨_, hstep', agree_of_idle rfl (by rw [h.same]; rfl),
      { acc := hacc, busy := .inl rfl, done := .inl rfl, err := .inl rfl, terr := .inl rfl }⟩
  | ok bs =>
    cases e
    have facts := call_facts hc
    refine ⟨_, hstep', ⟨by rw [h.same]; rfl, fun _ => h.cmd (call_ne_idle hc), fun ht => ?_,
      fun q hq => ?_⟩, { acc := ?_, rb := ?_ }⟩
    · simp [afterOk, latchesRb_of_testsRb facts.moves ht]
    · simp [afterOk, facts.convert q hq]
    · cases has : assembles s.pc with
      | some q => exact .inl (by simp [afterOk, has])
      | none => simpa [SameOrKept, afterOk, has] using hacc
    · cases hl : latchesRb s.pc with
      | true => exact .inl (by simp [afterOk, hl])
      | false => exact .inr (by simp [afterOk, hl, beforeCall])

theorem follows_sleep (h : Agree s s') (hu : s.Undisturbed) {q : Quantity}
    (hq : s.pc.measuring = some (q, .sleep)) (e : step s = .next t) : Follows s s' t := by
  have hp := measuring_eq_some.1 hq
  have hidle : s.pc ≠ .idle := hp ▸ measPc_ne_idle q .sleep
  have hstep' := step_meas (h.undisturbed hu) (h.pc.trans hp)
  obtain ⟨w, ws, d, hw, hw'⟩ := takeWake_of_agree h.wakes h.draws
  rw [step_meas hu hp, measureStep, sleepCall, hw] at e
  rw [measureStep, sleepCall, hw'] at hstep'
  cases w with
  | false =>
    cases e
    exact ⟨_, hstep', ⟨by rw [h.same]; rfl, h.cmd, h.rb, h.acc⟩, {}⟩
  | true =>
    cases e
    refine ⟨_, hstep', ⟨by rw [h.same]; rfl, fun _ => h.cmd hidle, fun ht => ?_,
      fun q' hq' => ?_⟩, {}⟩
    · simp at ht
    · cases (measPc_measuring q _).symm.trans hq'

/-! ## Steps without a call -/

/-- A step within a run to one that reads no register. -/
theorem follows_goesOn (h : Agree s s') (hs : s.pc ≠ .idle) {p : Pc}
    (hstep : step s' = .next { s' with pc := p }) (ht : testsRb p = false)
    (hm : ∀ q, p.measuring ≠ some (q, .convert)) : Follows s s' { s with pc := p } :=
  ⟨_, hstep,
    { same := by rw [h.same]
      cmd := fun _ => h.cmd hs
      rb := fun ht' => absurd (ht'.symm.trans ht) nofun
      acc := fun q hq => absurd hq (hm q) }, {}⟩

theorem follows_check (h : Agree s s') (hu : s.Undisturbed) (hp : s.pc = .init .check) :
    Follows s s' (initCheck s) := by
  have hrb : s'.rb = s.rb := h.rb (by rw [hp]; rfl)
  have hp' := h.pc.trans hp
  by_cases hid : s.rb = idExpected
  · rw [initCheck_of_match hid]
    exact follows_goesOn h (by simp [hp])
      (step_identified (h.undisturbed hu) hp' (hrb.trans hid)) rfl nofun
  · rw [initCheck_of_mismatch hid]
    exact ⟨_, step_unknownDevice (h.undisturbed hu) hp' (hrb ▸ hid),
      agree_of_idle rfl (by rw [h.same]; rfl),
      { busy := .inl rfl, done := .inl rfl, err := .inl rfl }⟩

theorem follows_test (h : Agree s s') (hu : s.Undisturbed) {q : Quantity}
    (hp : s.pc = measPc q .test) : Follows s s' (pollTest q (measPc q) s) := by
  have hrb : s'.rb = s.rb := h.rb (by simp [hp])
  have hidle : s.pc ≠ .idle := hp ▸ measPc_ne_idle q .test
  have hp' := h.pc.trans hp
  rw [pollTest]
  split
  case isTrue hr =>
    rw [← hrb, ← h.params] at hr
    exact follows_goesOn h hidle (step_ready (h.undisturbed hu) hp' hr) (by simp) (by simp)
  case isFalse hr =>
    rw [← hrb, ← h.params, Bool.not_eq_true] at hr
    exact follows_goesOn h hidle (step_notReady (h.undisturbed hu) hp' hr) (by simp) (by simp)

theorem follows_convert (h : Agree s s') (hu : s.Undisturbed) {q : Quantity}
    (hp : s.pc = measPc q .convert) :
    Follows s s' { s with res := convert q s.acc, pc := measPc q .done } := by
  have hacc : s'.acc = s.acc := h.acc q (by rw [hp, measPc_measuring])
  have hidle : s.pc ≠ .idle := hp ▸ measPc_ne_idle q .convert
  refine ⟨_, step_internal (h.undisturbed hu) (.convert q (h.pc.trans hp)),
    ⟨by rw [h.same], fun _ => h.cmd hidle, fun ht => ?_, fun q' hq => ?_⟩,
    { res := .inl (congrArg (convert q) hacc) }⟩
  · simp at ht
  · cases (measPc_measuring q _).symm.trans hq

theorem follows_finish (h : Agree s s') (hu : s.Undisturbed) (hi : Internal s' (finish s')) :
    Follows s s' (finish s) :=
  ⟨_, step_internal (h.undisturbed hu) hi, agree_of_idle rfl (by rw [h.same]; rfl),
    { busy := .inl rfl, done := .inl rfl }⟩

theorem follows_internal (h : Agree s s') (hu : s.Undisturbed) (hi : Internal s t) :
    Follows s s' t := by
  cases hi with
  | check hp => exact follows_check h hu hp
  | test q hp => exact follows_test h hu hp
  | convert q hp => exact follows_convert h hu hp
  | measFinish q hp => exact follows_finish h hu (.measFinish q (h.pc.trans hp))
  | rdregFinish hp => exact follows_finish h hu (.rdregFinish (h.pc.trans hp))
  | wrregFinish hp => exact follows_finish h hu (.wrregFinish (h.pc.trans hp))
  | initFinish hp =>
    exact ⟨_, step_internal (h.undisturbed hu) (.initFinish (h.pc.trans hp)),
      agree_of_idle rfl (by rw [h.same]; rfl),
      { busy := .inl rfl, done := .inl rfl, ok := .inl rfl }⟩

/-! ## Every step -/

theorem follows_step (h : Agree s s') (e : step s = .next t) : Follows s s' t := by
  cases step_cases e with
  | reset hr => exact follows_reset h hr
  | idles hr hp hw =>
    exact ⟨s', step_idles (h.resetReq.trans hr) (h.pc.trans hp) (h.port.trans hw), h, {}⟩
  | accepts hr hp w ws hw i hd => exact follows_accepts h hr hp hw hd
  | refuses hr hp w ws hw x hd => exact follows_refuses h hr hp hw hd
  | waits hu c hc ht | fails hu c hc ht | returns hu c hc ht =>
    exact follows_call h hu hc (by rintro ms rfl; cases ht) e
  | sleeps hu q hq | wakes hu q hq => exact follows_sleep h hu hq e
  | internal hu _ _ hi => exact follows_internal h hu hi

/-- A step has a next state unless another agent's use has left the run without meaning (R61). -/
theorem step_next_or_foreign (s : State) :
    (∃ t, step s = .next t) ∨
      (s.resetReq = false ∧ s.pc ≠ .idle ∧ (s.foreignUse = true ∨ s.disturbed = true)) := by
  cases hr : s.resetReq with
  | true => exact .inl ⟨_, step_reset hr⟩
  | false =>
    by_cases hp : s.pc = .idle
    · cases hw : s.port with
      | nil => exact .inl ⟨_, step_idles hr hp hw⟩
      | cons w ws =>
        cases hd : decode w with
        | ok i => exact .inl ⟨_, step_accepts hr hp hw hd⟩
        | error x => exact .inl ⟨_, step_refuses hr hp hw hd⟩
    · by_cases hf : s.foreignUse = true ∨ s.disturbed = true
      · exact .inr ⟨rfl, hp, hf⟩
      · have hu : s.Undisturbed := ⟨hr, by simpa using hf⟩
        obtain ⟨i, hi⟩ := running_of_ne_idle hp
        have hexec : ∃ t, exec i s = .next t := by cases i <;> exact ⟨_, rfl⟩
        exact .inl (step_running hu hi ▸ hexec)

end Step

/-! ## The results (R30) -/

/-- What `Agree` lets differ beside the results. -/
theorem registers_of_sameButResults {s s' : State} (h : s.SameButResults s') :
    s'.acc = s.acc ∧ s'.rb = s.rb ∧ s'.cmd = s.cmd ∧ s'.busy = s.busy := by
  rw [h]
  exact ⟨rfl, rfl, rfl, rfl⟩

theorem agree_of_sameButResults {s s' : State} (h : s.SameButResults s') : Agree s s' := by
  obtain ⟨hacc, hrb, hcmd, hbusy⟩ := registers_of_sameButResults h
  exact ⟨by rw [hacc, hrb, hcmd, hbusy]; exact h, fun _ => hcmd, fun _ => hrb, fun _ _ => hacc⟩

/-- A register that was the same in both states, and settles, is the same again. -/
theorem same_of_sameOrKept {α : Type} {x : State → α} {s s' t t' : State}
    (h : SameOrKept x s s' t t') (hs : x s' = x s) : x t' = x t :=
  h.elim id fun ⟨ht, ht'⟩ => ht'.trans (hs.trans ht.symm)

theorem sameButResults_of_settled {s s' t t' : State} (h : s.SameButResults s') (ht : Agree t t')
    (hst : Settled s s' t t') : t.SameButResults t' := by
  obtain ⟨hacc, hrb, hcmd, hbusy⟩ := registers_of_sameButResults h
  have hs := ht.same
  rwa [same_of_sameOrKept hst.acc hacc, same_of_sameOrKept hst.rb hrb,
    same_of_sameOrKept hst.cmd hcmd, same_of_sameOrKept hst.busy hbusy] at hs

/-- Settles O58: the states agree, so each step of one is followed by the other; what was the same
and settles stays the same. -/
theorem resultRegistersAreNotRead : Obligations.ResultRegistersAreNotRead := by
  intro s s' h
  have ha := agree_of_sameButResults h
  obtain ⟨t, e⟩ | ⟨hr, hp, hf⟩ := step_next_or_foreign s
  · obtain ⟨t', e', ht, hst⟩ := follows_step ha e
    rw [e, e']
    exact ⟨sameButResults_of_settled h ht hst, hst.res, hst.ok, hst.err, hst.terr, hst.done⟩
  · have hf' : s'.foreignUse = true ∨ s'.disturbed = true := by rwa [ha.foreignUse, ha.disturbed]
    rw [step_foreign hr hp hf, step_foreign (ha.resetReq.trans hr) (ha.pc ▸ hp) hf']

/-! ## From one command to the next (R192) -/

theorem follows_runSteps {n : Nat} {s s' t : State} (h : Agree s s') (e : runSteps n s = .next t) :
    ∃ t', runSteps n s' = .next t' ∧ Agree t t' ∧ Settled s s' t t' := by
  induction n generalizing s s' with
  | zero =>
    cases e
    exact ⟨s', rfl, h, {}⟩
  | succ n ih =>
    obtain ⟨u, eu, e⟩ := runSteps_succ_inv e
    obtain ⟨u', eu', hu, hsu⟩ := follows_step h eu
    obtain ⟨t', e', ht, hst⟩ := ih hu e
    exact ⟨t', (runSteps_succ eu').trans e', ht, hsu.trans hst⟩

/-- Settles O59: idle states agree whatever their registers hold, and every step keeps agreement. -/
theorem nothingCarriedBetweenCommands : Obligations.NothingCarriedBetweenCommands := by
  intro s s' n t hp hs e
  obtain ⟨t', e', h, hst⟩ := follows_runSteps (agree_of_idle hp hs) e
  exact ⟨t', e', h.pc, by rw [h.same], by rw [h.same], h.port, hst.acc, hst.rb, hst.res, hst.cmd,
    hst.busy, hst.done, hst.ok, hst.err, hst.terr⟩

end Sys2Proof.Proofs
end
